-- ==== Sys2Proof/Word.lean ====
section
/-! DEFINITION. The widths of spec/00_scope.md R6 and spec/30_encoding.md R72, as types. -/

namespace Sys2Proof

/-- XLEN and DATA_W: a 64-bit unsigned value (R6, R8). -/
abbrev Word := BitVec 64

/-- One byte lane of a byte-addressed host bus (20_memory R51). -/
abbrev Byte := BitVec 8

/-- ADDR_W: a byte offset in the register space (R6, 20_memory R45). -/
abbrev Offset := BitVec 8

/-- The SLOT field of a command word and PEND.SLOT (30_encoding R66, 10_state R40). -/
abbrev SlotIndex := BitVec 4

/-- The packed host transaction record (W, OFFSET, DATA) (30_encoding R73). -/
abbrev Record := BitVec 73

end Sys2Proof
end

