-- ==== Sys2Proof/Syntax.lean ====
section
/-! DEFINITION. The instructions of spec/opcode_table.json, one constructor a row, and the names around them: command
operations, registers, encoded forms and host-script statements. -/

namespace Sys2Proof

/-- The three engine operations (30_encoding R67). -/
inductive CmdOp where
  | rcp | divr | modr
  deriving DecidableEq, Repr

/-- A legal command word's content: its operation and its slot (30_encoding R66, R68). -/
structure Command where
  op   : CmdOp
  slot : SlotIndex
  deriving DecidableEq, Repr

/-- The rows of spec/opcode_table.json. The first three are command words, issued by a write to CMD; the last two are
host transaction records. -/
inductive Instr where
  /-- RCP, magic_multiplier_compute (41 R97). -/
  | rcp (slot : SlotIndex)
  /-- DIVR, divide_by_reciprocal (42 R105). -/
  | divr (slot : SlotIndex)
  /-- MODR, modulo_by_reciprocal (43 R111). -/
  | modr (slot : SlotIndex)
  /-- HRD, a host read (40 R80). The record has a DATA field that the read ignores (30_encoding R72). -/
  | hrd (off : Offset) (data : Word)
  /-- HWR, a host write (40 R81). -/
  | hwr (off : Offset) (data : Word)
  deriving DecidableEq, Repr

/-- The two encoded forms, each of fixed length (30_encoding R65). -/
inductive Encoded where
  | command (w : Word)
  | record (r : Record)
  deriving DecidableEq, Repr

/-- The register names of the map (20_memory R48, 30_encoding R75); 12 slots are the most below 0x100. -/
inductive Reg where
  | cmd | status | opa | opd | result | info
  | descM (k : Fin 12)
  | descSh (k : Fin 12)
  deriving DecidableEq, Repr

/-- A statement's target: a register name or a raw offset (30_encoding R75). -/
inductive Target where
  | name (r : Reg)
  | raw (off : Offset)
  deriving DecidableEq, Repr

/-- The transaction-issuing statements of a host script (30_encoding R74 to R78). Labels, goto and host variables are
host-side control flow and issue no transaction (R75); values stand here already computed. -/
inductive HostStmt where
  | rcp (k : SlotIndex)
  | divr (k : SlotIndex)
  | modr (k : SlotIndex)
  | wr (t : Target) (v : Word)
  | rd (t : Target)
  | cmd (op : BitVec 4) (k : SlotIndex)
  | wait
  | setd (v : Word) (k : SlotIndex)
  | div (v : Word) (k : SlotIndex)
  | mod (v : Word) (k : SlotIndex)
  deriving DecidableEq, Repr

end Sys2Proof
end

