-- ==== Sys2Proof/Decode.lean ====
section
/-! DEFINITION. Decoding and encoding of the two forms of spec/30_encoding.md, R65 to R73, and the register map's
offsets (R79). -/

namespace Sys2Proof

/-- Why a command word is illegal; both are reported as ILLEGAL_CMD (30_encoding R69, R70). -/
inductive DecodeError where
  /-- A bit of [7:4] or [63:12] is set (R69). -/
  | reservedBits
  /-- OP is 0x0 or 0x4 to 0xF (R67). -/
  | illegalOp
  deriving DecidableEq, Repr

/-- The opcode map (30_encoding R67). -/
def opOfField (op : BitVec 4) : Option CmdOp :=
  if op = 0x1 then some .rcp
  else if op = 0x2 then some .divr
  else if op = 0x3 then some .modr
  else none

/-- A command word: OP in [3:0], SLOT in [11:8], every other bit reserved (30_encoding R66, R69, R70). -/
def decodeCommand (w : Word) : Except DecodeError Command :=
  if w.extractLsb' 4 4 ≠ 0 ∨ w.extractLsb' 12 52 ≠ 0 then .error .reservedBits
  else match opOfField (w.extractLsb' 0 4) with
    | some op => .ok ⟨op, w.extractLsb' 8 4⟩
    | none => .error .illegalOp

/-- The instruction a command stands for. -/
def Command.instr (c : Command) : Instr :=
  match c.op with
  | .rcp => .rcp c.slot
  | .divr => .divr c.slot
  | .modr => .modr c.slot

/-- A host transaction record: W is bit 72, OFFSET bits [71:64], DATA bits [63:0] (30_encoding R72, R73). Every record is
a read or a write. -/
def decodeRecord (r : Record) : Instr :=
  if r.getLsbD 72 then .hwr (r.extractLsb' 64 8) (r.extractLsb' 0 64)
  else .hrd (r.extractLsb' 64 8) (r.extractLsb' 0 64)

/-- Decoding, total on both forms (30_encoding R65, R71). -/
def decode : Encoded → Except DecodeError Instr
  | .command w => (decodeCommand w).map Command.instr
  | .record r => .ok (decodeRecord r)

/-- OP of an operation (30_encoding R67). -/
def CmdOp.field : CmdOp → BitVec 4
  | .rcp => 0x1
  | .divr => 0x2
  | .modr => 0x3

/-- The command word of an operation and a slot (30_encoding R66). -/
def encodeCommand (c : Command) : Word := 0#52 ++ c.slot ++ 0#4 ++ c.op.field

/-- The packed record of its three fields (30_encoding R73). -/
def encodeRecord (write : Bool) (off : Offset) (data : Word) : Record := BitVec.ofBool write ++ off ++ data

/-- Encoding, in the form of the instruction's row (30_encoding R65). -/
def encode : Instr → Encoded
  | .rcp k => .command (encodeCommand ⟨.rcp, k⟩)
  | .divr k => .command (encodeCommand ⟨.divr, k⟩)
  | .modr k => .command (encodeCommand ⟨.modr, k⟩)
  | .hrd off data => .record (encodeRecord false off data)
  | .hwr off data => .record (encodeRecord true off data)

/-- The offset of a register (30_encoding R79, 20_memory R48). -/
def Reg.offset : Reg → Offset
  | .cmd => 0x00
  | .status => 0x08
  | .opa => 0x10
  | .opd => 0x18
  | .result => 0x20
  | .info => 0x28
  | .descM k => BitVec.ofNat 8 (0x40 + 16 * k.val)
  | .descSh k => BitVec.ofNat 8 (0x48 + 16 * k.val)

/-- The instruction of an opcode-table word of `nbits` bits: up to 64 bits a command word, more a host transaction
record, whose 73 bits the table rounds up to whole bytes (log entry 12). -/
def decodeTableWord (nbits w : Nat) : Option Instr :=
  if nbits ≤ 64 then
    if w < 2 ^ 64 then (decode (.command (BitVec.ofNat 64 w))).toOption else none
  else
    if w < 2 ^ 73 then (decode (.record (BitVec.ofNat 73 w))).toOption else none

end Sys2Proof
end

