-- ==== Sys2Proof/Config.lean ====
section
/-! DEFINITION. What an implementation fixes (spec/00_scope.md R6) and the values the spec leaves open. -/

namespace Sys2Proof.Config

/-- NDESC of the reference configuration (00_scope R6, 10_state R25). It sizes `State.reset` alone: every other
definition takes the size of the bank it is given (log entry 4). -/
def ndesc : Nat := 4

/-- The least and the greatest legal NDESC (00_scope R6). -/
def ndescMin : Nat := 1

@[inherit_doc ndescMin] def ndescMax : Nat := 12

/-- REV (00_scope R6, 10_state R33). -/
def rev : BitVec 8 := 1

/-- The ISA string of a unit with `n` descriptor slots (00_scope R3). -/
def isaString (n : Nat) : String := "RDU1-N" ++ toString n

/-- RDU_BASE, the base of the register space in the host's address map: OPEN (20_memory R64, 93 U15; log entry 5). -/
opaque rduBase : Nat

/-- FREE VALUE: how many host events fall between the accept of the `n`-th accepted command and its completion. Any
finite number, zero included (00_scope R6 LAT_*, 20_memory R56, 40_host_access R94, 93 U10; log entry 2). -/
opaque latency : Nat → Nat

end Sys2Proof.Config
end

