-- ==== Sys2Proof/Machine/State.lean ====
section
/-! DEFINITION. The state of spec/10_state.md R20, the host's side of the port (30_encoding R72), and the reasons a step
can stop. -/

namespace Sys2Proof.Machine

/-- The reciprocal descriptor value, the triple of m, sh1 and sh2 (10_state R24), at its stored widths (R26 to R28). -/
structure Descriptor where
  m   : Word
  sh1 : BitVec 1
  sh2 : BitVec 6
  deriving DecidableEq, Repr

/-- A descriptor slot DESC[s]: a descriptor and its VALID bit (10_state R25, R29). -/
structure Slot extends Descriptor where
  valid : Bool
  deriving DecidableEq, Repr

/-- A slot at reset (10_state R43). -/
def Slot.reset : Slot := { m := 0, sh1 := 0, sh2 := 0, valid := false }

/-- A transaction's response: RDATA and ERR (30_encoding R72). -/
structure Response where
  rdata : Word
  err   : Bool
  deriving DecidableEq, Repr

/-- One thing the outside does to the unit. -/
inductive Input where
  /-- A 64-bit host transaction, as its packed record (30_encoding R72, R73). -/
  | record (r : Record)
  /-- A read of `width` bytes at `addr` on a byte-addressed host bus (20_memory R51). -/
  | busRead (addr width : Nat)
  /-- A write of `bytes`, lowest address first, at `addr` on a byte-addressed host bus (20_memory R51). -/
  | busWrite (addr : Nat) (bytes : List Byte)
  /-- The host's `wait` loop: read STATUS until BUSY is 0 (30_encoding R77; log entry 13). -/
  | wait
  /-- The reset event (70_reset R135). -/
  | reset
  /-- A transaction issued while reset is asserted, which the host must not do (70_reset R137). -/
  | duringReset (r : Record)
  deriving DecidableEq, Repr

/-- The command errors of 60_exceptions R118. -/
inductive CmdError where
  | illegalCmd | badSlot | divisorZero | descInvalid
  deriving DecidableEq, Repr

/-- The state of 10_state R20 (from `opa` to `pendSlot`), then the model's own fields (log entries 1 to 3). -/
structure State where
  /-- OPA (R22). -/
  opa : Word
  /-- OPD (R23). -/
  opd : Word
  /-- RESULT (R30). -/
  result : Word
  /-- DESC[0] to DESC[NDESC-1] (R25); its length IS the configuration's NDESC (log entry 4). -/
  desc : List Slot
  /-- STATUS.BUSY (R34). -/
  busy : Bool
  /-- STATUS.DONE (R35). -/
  done : Bool
  /-- STATUS.ERR (R36). -/
  err : BitVec 4
  /-- STATUS.ERR_STICKY (R37). -/
  errSticky : Bool
  /-- STATUS.OVERRUN (R38). -/
  overrun : Bool
  /-- PEND.OP (R40). -/
  pendOp : BitVec 2
  /-- PEND.SLOT (R40). -/
  pendSlot : SlotIndex
  /-- The host's last response (30_encoding R72); none before the first. -/
  resp : Option Response
  /-- What the outside does next, oldest first. -/
  inputs : List Input
  /-- How many host events still fall before the pending completion: a free value, drawn at accept. -/
  hostLeft : Nat
  /-- How many free values have been drawn. -/
  draws : Nat
  deriving DecidableEq, Repr

/-- The unit right after reset, in the reference configuration (10_state R43, 70_reset R135, R136). The model's own
fields hold the values of log entries 1 to 3. -/
def State.reset : State where
  opa := 0
  opd := 0
  result := 0
  desc := List.replicate Config.ndesc Slot.reset
  busy := false
  done := false
  err := 0
  errSticky := false
  overrun := false
  pendOp := 0
  pendSlot := 0
  resp := none
  inputs := []
  hostLeft := 0
  draws := 0

/-- Reasons the machine is stuck: states with BUSY = 1 for which 40_host_access R92 gives the engine no case. No run
from reset meets one (log entry 9). -/
inductive Fault where
  /-- Raised by the completion step when PEND.OP is no operation. Safe: the model stops. -/
  | pendingOpIllegal
  /-- Raised by the completion step when PEND.SLOT names no slot of the bank. Safe: the model stops. -/
  | pendingSlotAbsent
  deriving DecidableEq, Repr

/-- Reasons the model gives no meaning. -/
inductive Refusal where
  /-- Raised by an arm of `exec` for an instruction without a meaning; no arm does so now. Safe: the model stops. -/
  | notModelled (mnemonic : String)
  /-- Raised by the completion step when it would apply computeReciprocal to 0 (41 R101; log entry 8). Safe: the model
  stops. -/
  | reciprocalOfZero
  /-- Raised by the host port for a bus access that is not of 64 bits (20_memory R51; log entry 6). Safe: the model
  stops. -/
  | notWordAccess
  /-- Raised by the host port for a bus access that is not addressed to the unit (20_memory R64; log entry 5). Safe: the
  model stops. -/
  | outsideWindow
  /-- Raised by the host port for a transaction during reset (70_reset R137; log entry 7). Safe: the model stops. -/
  | transactionDuringReset
  deriving DecidableEq, Repr

end Sys2Proof.Machine
end

