-- ==== Sys2Proof/Machine/Flags.lean ====
section
/-! DEFINITION. The STATUS fields: the word a read returns and every update of them but a rejection and the
write-1-to-clear, which stand in Machine/Ops.lean (spec/10_state.md R31 to R39). -/

namespace Sys2Proof.Machine

/-- The STATUS word: OVERRUN, ERR_STICKY, ERR, two zeros, DONE, BUSY from bit 9 down (40_host_access R90, 10_state
R31). -/
def statusWord (s : State) : Word :=
  (BitVec.ofBool s.overrun ++ BitVec.ofBool s.errSticky ++ s.err ++ 0#2 ++ BitVec.ofBool s.done
    ++ BitVec.ofBool s.busy).setWidth 64

/-- The code of a command error (60_exceptions R118). -/
def CmdError.code : CmdError → BitVec 4
  | .illegalCmd => 1
  | .badSlot => 2
  | .divisorZero => 3
  | .descInvalid => 4

/-- STATUS when a command is accepted: BUSY, no DONE, ERR NONE (40_host_access R91). -/
def setAccepted (s : State) : State := { s with busy := true, done := false, err := 0 }

/-- STATUS when a command completes (40_host_access R92). No host event is left before a completion that has happened. -/
def setCompleted (s : State) : State := { s with busy := false, done := true, hostLeft := 0 }

/-- STATUS when a write is dropped (40_host_access R89, 60_exceptions R120). -/
def setOverrun (s : State) : State := { s with overrun := true }

end Sys2Proof.Machine
end

