-- ==== Sys2Proof/Machine/Ops.lean ====
section
/-! DEFINITION. The primitives of spec/00_scope.md R10 and R11, and the shared operations over the state: responses, the
descriptor bank, rejection and its clearing, accept, dropped writes, reset. -/

namespace Sys2Proof.Machine

/-- The 1-based index of the most significant set bit, 0 for 0 (00_scope R10; 90 C1). -/
def fls64 (x : Word) : Nat := if x = 0 then 0 else Nat.log2 x.toNat + 1

/-- The high 64 bits of the exact 128-bit product (00_scope R11). -/
def mulhi64 (a m : Word) : Word := BitVec.ofNat 64 (a.toNat * m.toNat / 2 ^ 64)

/-- NDESC of this unit: the size of its bank (10_state R25). -/
def State.ndesc (s : State) : Nat := s.desc.length

/-- The response to the current transaction (30_encoding R72). -/
def respond (rdata : Word) (err : Bool) (s : State) : State := { s with resp := some ⟨rdata, err⟩ }

/-- The OK response to a write: RDATA = 0 (30_encoding R72). -/
def respondOk (s : State) : State := respond 0 false s

/-- The BusError response: RDATA = 0, ERR = 1, nothing else changes (60_exceptions R119). -/
def busError (s : State) : State := respond 0 true s

/-- Slot `k` of the bank. Asked only for `k < NDESC`. -/
def State.slotAt (s : State) (k : Nat) : Slot := s.desc.getD k Slot.reset

/-- Writes slot `k` of the bank, and no other (10_state R25). -/
def setSlot (k : Nat) (d : Slot) (s : State) : State := { s with desc := s.desc.set k d }

/-- Rejection, the unit's analogue of taking an exception: the code, DONE and ERR_STICKY, nothing else (40_host_access
R93, 60_exceptions R124). -/
def reject (e : CmdError) (s : State) : State := { s with err := e.code, done := true, errSticky := true }

/-- Write 1 to clear, the analogue of returning from one (40_host_access R86, 60_exceptions R125). -/
def clearSticky (wdata : Word) (s : State) : State :=
  { s with
    errSticky := s.errSticky && !wdata.getLsbD 8
    overrun := s.overrun && !wdata.getLsbD 9 }

/-- PEND.OP of an operation: OP[1:0] (30_encoding R67). -/
def pendCode : CmdOp → BitVec 2
  | .rcp => 1
  | .divr => 2
  | .modr => 3

/-- The operation PEND.OP names, if any. -/
def opOfPend (c : BitVec 2) : Option CmdOp :=
  if c = 1 then some .rcp else if c = 2 then some .divr else if c = 3 then some .modr else none

/-- Accept without error: PEND, STATUS, and a fresh draw of the number of host events before the completion
(40_host_access R91, R94; log entry 2). -/
def accept (op : CmdOp) (slot : SlotIndex) (s : State) : State :=
  { setAccepted s with
    pendOp := pendCode op
    pendSlot := slot
    hostLeft := Config.latency s.draws
    draws := s.draws + 1 }

/-- A write that arrives while BUSY is dropped with an OK response (40_host_access R89). -/
def dropWrite (s : State) : State := respondOk (setOverrun s)

/-- A command's CMD write: dropped while BUSY, else rejected by its first failing check, else accepted
(40_host_access R89, R91, R93; 60_exceptions R122). -/
def issue (op : CmdOp) (slot : SlotIndex) (check : Option CmdError) (s : State) : State :=
  if s.busy then dropWrite s
  else match check with
    | some e => respondOk (reject e s)
    | none => respondOk (accept op slot s)

/-- The reset event: every state element of 10_state R20 at its reset value, a command in flight abandoned
(70_reset R135). The bank keeps its size; the host's events to come and the count of free values drawn are not the
unit's (log entry 14). -/
def resetUnit (s : State) : State :=
  { State.reset with
    desc := List.replicate s.ndesc Slot.reset
    inputs := s.inputs
    draws := s.draws }

end Sys2Proof.Machine
end

