-- ==== Sys2Proof/Machine/Operands.lean ====
section
/-! DEFINITION. The operands: the register map and the value and write of each register (spec/20_memory.md R47 to R51,
spec/40_host_access.md R82 to R90), the byte lanes of a host bus, and the slot checks of the commands (R91). -/

namespace Sys2Proof.Machine

/-- The register a map with every slot has at an offset: none for a misaligned offset (20_memory R47) and for the holes
0x30 and 0x38 (R48, R49). -/
def regAt (off : Offset) : Option Reg :=
  if off.extractLsb' 0 3 ≠ 0 then none
  else match off.toNat / 8 with
    | 0 => some .cmd
    | 1 => some .status
    | 2 => some .opa
    | 3 => some .opd
    | 4 => some .result
    | 5 => some .info
    | 6 => none
    | 7 => none
    | n + 8 =>
      if h : n / 2 < 12 then some (if n % 2 = 0 then .descM ⟨n / 2, h⟩ else .descSh ⟨n / 2, h⟩) else none

/-- Whether a unit with `n` slots has the register (20_memory R48). -/
def regPresent (n : Nat) : Reg → Bool
  | .descM k => k.val < n
  | .descSh k => k.val < n
  | .cmd => true
  | .status => true
  | .opa => true
  | .opd => true
  | .result => true
  | .info => true

/-- The register this unit maps at an offset; none is a BusError (20_memory R47 to R49, 40_host_access R80). -/
def State.mapped (s : State) (off : Offset) : Option Reg := (regAt off).filter (regPresent s.ndesc)

/-- INFO: REV in [15:8], NDESC in [7:0] (10_state R33). -/
def infoWord (n : Nat) : Word := (Config.rev ++ BitVec.ofNat 8 n).setWidth 64

/-- DESC_SH[s]: VALID in bit 16, SH2 in [13:8], SH1 in bit 0, every other bit 0 (40_host_access R85, R90). -/
def descShWord (d : Slot) : Word := (BitVec.ofBool d.valid ++ 0#2 ++ d.sh2 ++ 0#7 ++ d.sh1).setWidth 64

/-- ReadValue (40_host_access R90). -/
def readReg (s : State) : Reg → Word
  | .cmd => 0
  | .status => statusWord s
  | .opa => s.opa
  | .opd => s.opd
  | .result => s.result
  | .info => infoWord s.ndesc
  | .descM k => (s.slotAt k.val).m
  | .descSh k => descShWord (s.slotAt k.val)

/-- A write to OPA (40_host_access R82). -/
def writeOpa (v : Word) (s : State) : State := { s with opa := v }

/-- A write to OPD (40_host_access R83). -/
def writeOpd (v : Word) (s : State) : State := { s with opd := v }

/-- A write to DESC_M[k]: M alone (40_host_access R84). -/
def writeDescM (k : Nat) (v : Word) (s : State) : State := setSlot k { s.slotAt k with m := v } s

/-- A write to DESC_SH[k]: SH1, SH2 and VALID; the other bits are ignored (40_host_access R85). -/
def writeDescSh (k : Nat) (v : Word) (s : State) : State :=
  setSlot k
    { s.slotAt k with sh1 := v.extractLsb' 0 1, sh2 := v.extractLsb' 8 6, valid := v.getLsbD 16 } s

/-- The accept checks of RCP after the word's own: BAD_SLOT, then DIVISOR_ZERO (40_host_access R91). -/
def rcpCheck (slot : SlotIndex) (s : State) : Option CmdError :=
  if s.ndesc ≤ slot.toNat then some .badSlot
  else if s.opd = 0 then some .divisorZero
  else none

/-- The accept checks of DIVR and MODR after the word's own: BAD_SLOT, then DESC_INVALID (40_host_access R91). -/
def useCheck (slot : SlotIndex) (s : State) : Option CmdError :=
  if s.ndesc ≤ slot.toNat then some .badSlot
  else if (s.slotAt slot.toNat).valid = false then some .descInvalid
  else none

/-- Byte lane `j` of a word: bits [8j+7:8j] (20_memory R51). -/
def laneByte (v : Word) (j : Nat) : Byte := v.extractLsb' (8 * j) 8

/-- The eight host bytes of a word, lowest address first (20_memory R51). -/
def lanes (v : Word) : List Byte := (List.range 8).map (laneByte v)

/-- The word of host bytes, lowest address first (20_memory R51). -/
def joinLanes : List Byte → Word
  | [] => 0
  | b :: rest => (joinLanes rest <<< 8) ||| b.setWidth 64

/-- Whether a host address falls in the unit's window of 256 bytes (20_memory R45, R64). -/
def inWindow (addr : Nat) : Bool := Config.rduBase ≤ addr && addr < Config.rduBase + 256

/-- The offset of a host address in the window. -/
def windowOffset (addr : Nat) : Offset := BitVec.ofNat 8 (addr - Config.rduBase)

end Sys2Proof.Machine
end

