-- ==== Sys2Proof/Machine/Divide.lean ====
section
/-! DEFINITION. DIVR, divide_by_reciprocal (spec/42_divide_by_reciprocal.md). -/

namespace Sys2Proof.Machine

/-- reciprocalDivide (42 R104), on any descriptor a slot can hold (R109). -/
def reciprocalDivide (a : Word) (r : Descriptor) : Word :=
  let t := mulhi64 a r.m
  let u := (a - t) >>> r.sh1.toNat
  (t + u) >>> r.sh2.toNat

/-- The CMD write of a DIVR command word (42 R105, 30_encoding R74). -/
def execDivr (slot : SlotIndex) (s : State) : Host.Outcome State Fault Refusal :=
  .next (issue .divr slot (useCheck slot s) s)

/-- DIVR at completion (42 R105, 40_host_access R92). -/
def completeDivr (s : State) : Host.Outcome State Fault Refusal :=
  .next (setCompleted
    { s with result := reciprocalDivide s.opa (s.slotAt s.pendSlot.toNat).toDescriptor })

end Sys2Proof.Machine
end

