-- ==== Sys2Proof/Machine/Modulo.lean ====
section
/-! DEFINITION. MODR, modulo_by_reciprocal (spec/43_modulo_by_reciprocal.md). -/

namespace Sys2Proof.Machine

/-- The remainder before the correction: `a -_64 (q *_64 d)` (43 R110). -/
def remainderRaw (a d : Word) (r : Descriptor) : Word := a - reciprocalDivide a r * d

/-- reciprocalRemainder: at most one correction, unsigned compare, everything modulo 2^64 (43 R110, R116). -/
def reciprocalRemainder (a d : Word) (r : Descriptor) : Word :=
  if d ≤ remainderRaw a d r then remainderRaw a d r - d else remainderRaw a d r

/-- The CMD write of a MODR command word (43 R111, 30_encoding R74). -/
def execModr (slot : SlotIndex) (s : State) : Host.Outcome State Fault Refusal :=
  .next (issue .modr slot (useCheck slot s) s)

/-- MODR at completion (43 R111, 40_host_access R92). -/
def completeModr (s : State) : Host.Outcome State Fault Refusal :=
  .next (setCompleted
    { s with result := reciprocalRemainder s.opa s.opd (s.slotAt s.pendSlot.toNat).toDescriptor })

end Sys2Proof.Machine
end

