-- ==== Sys2Proof/Machine/Reciprocal.lean ====
section
/-! DEFINITION. RCP, magic_multiplier_compute (spec/41_magic_multiplier_compute.md). -/

namespace Sys2Proof.Machine

/-- computeReciprocal (41 R96), exact on naturals until it is narrowed; none for 0, where it is not defined (R101). -/
def computeReciprocal (d : Word) : Option Descriptor :=
  if d = 0 then none
  else
    let l := fls64 (d - 1)
    let v := 2 ^ 64 * (2 ^ l - d.toNat)
    some { m := BitVec.ofNat 64 (v / d.toNat + 1)
           sh1 := BitVec.ofNat 1 (min l 1)
           sh2 := BitVec.ofNat 6 (l - 1) }

/-- The CMD write of an RCP command word (41 R97, 30_encoding R74). -/
def execRcp (slot : SlotIndex) (s : State) : Host.Outcome State Fault Refusal :=
  .next (issue .rcp slot (rcpCheck slot s) s)

/-- RCP at completion: all four fields of the slot (41 R97, 40_host_access R92). -/
def completeRcp (s : State) : Host.Outcome State Fault Refusal :=
  match computeReciprocal s.opd with
  | some r => .next (setCompleted (setSlot s.pendSlot.toNat ⟨r, true⟩ s))
  | none => .refused .reciprocalOfZero

end Sys2Proof.Machine
end

