-- ==== Sys2Proof/Machine/HostAccess.lean ====
section
/-! DEFINITION. HRD and HWR, the host's transactions (spec/40_host_access.md R80, R81). -/

namespace Sys2Proof.Machine

/-- HRD: the register's value, or a BusError; no state of the unit changes. DATA is ignored (40 R80, 30_encoding
R72). -/
def execHrd (off : Offset) (_data : Word) (s : State) : Host.Outcome State Fault Refusal :=
  match s.mapped off with
  | none => .next (busError s)
  | some r => .next (respond (readReg s r) false s)

/-- A write to CMD: a legal word is its command, an illegal one is rejected (40 R88, R91). -/
def writeCmd (w : Word) (s : State) : Host.Outcome State Fault Refusal :=
  match decodeCommand w with
  | .error _ => .next (respondOk (reject .illegalCmd s))
  | .ok ⟨.rcp, k⟩ => execRcp k s
  | .ok ⟨.divr, k⟩ => execDivr k s
  | .ok ⟨.modr, k⟩ => execModr k s

/-- A write that is performed, by register (40 R81 to R88). -/
def writeReg (r : Reg) (wdata : Word) (s : State) : Host.Outcome State Fault Refusal :=
  match r with
  | .cmd => writeCmd wdata s
  | .status => .next (respondOk (clearSticky wdata s))
  | .opa => .next (respondOk (writeOpa wdata s))
  | .opd => .next (respondOk (writeOpd wdata s))
  | .result => .next (respondOk s)
  | .info => .next (respondOk s)
  | .descM k => .next (respondOk (writeDescM k.val wdata s))
  | .descSh k => .next (respondOk (writeDescSh k.val wdata s))

/-- HWR: the address check, then the busy check, then the write (40 R81, 60_exceptions R122). -/
def execHwr (off : Offset) (wdata : Word) (s : State) : Host.Outcome State Fault Refusal :=
  match s.mapped off with
  | none => .next (busError s)
  | some r => if s.busy && r != .status then .next (dropWrite s) else writeReg r wdata s

end Sys2Proof.Machine
end

