-- ==== Sys2Proof/Machine/Dispatch.lean ====
section
/-! DEFINITION. One arm per constructor of Instr, each one call of the instruction's meaning. -/

namespace Sys2Proof.Machine

def exec (i : Instr) (s : State) : Host.Outcome State Fault Refusal :=
  match i with
  | .rcp slot => Sys2Proof.Machine.execRcp slot s
  | .divr slot => Sys2Proof.Machine.execDivr slot s
  | .modr slot => Sys2Proof.Machine.execModr slot s
  | .hrd off data => Sys2Proof.Machine.execHrd off data s
  | .hwr off data => Sys2Proof.Machine.execHwr off data s

end Sys2Proof.Machine
end

