-- ==== Sys2Proof/Machine/Engine.lean ====
section
/-! DEFINITION. The engine's one step and when it is taken (spec/40_host_access.md R92, R94). -/

namespace Sys2Proof.Machine

/-- Whether the engine moves next: a command is pending, and either no host event is left before its completion or the
host has nothing more to do (20_memory R56, 40_host_access R94; log entry 2). -/
def engineTurn (s : State) : Bool :=
  s.busy && match s.hostLeft with
    | 0 => true
    | _ + 1 => s.inputs.isEmpty

/-- Complete(), the pending command's effect (40_host_access R92). -/
def complete (s : State) : Host.Outcome State Fault Refusal :=
  match opOfPend s.pendOp with
  | none => .fault .pendingOpIllegal
  | some op =>
    if s.ndesc ≤ s.pendSlot.toNat then .fault .pendingSlotAbsent
    else match op with
      | .rcp => completeRcp s
      | .divr => completeDivr s
      | .modr => completeModr s

end Sys2Proof.Machine
end

