-- ==== Sys2Proof/Machine/HostPort.lean ====
section
/-! DEFINITION. The host port: what each input of the outside asks of the unit (spec/20_memory.md R51, R55;
spec/30_encoding.md R72, R77; spec/70_reset_and_hazards.md R135, R137). -/

namespace Sys2Proof.Machine

/-- What an input asks: a transaction, the reset event, or something the spec leaves without a meaning. -/
inductive Event where
  | instr (i : Instr)
  | reset
  | refuse (r : Refusal)
  deriving DecidableEq, Repr

/-- A byte-bus access: 64 bits wide and inside the window it is the transaction of its offset (20_memory R51, R64); any
other width is refused, as R51 asks. -/
def busEvent (addr width : Nat) (i : Offset → Instr) : Event :=
  if width ≠ 8 then .refuse .notWordAccess
  else if inWindow addr then .instr (i (windowOffset addr))
  else .refuse .outsideWindow

/-- The event of an input. -/
def eventOf : Input → Event
  | .record r => .instr (decodeRecord r)
  | .busRead addr width => busEvent addr width fun off => .hrd off 0
  | .busWrite addr bytes => busEvent addr bytes.length fun off => .hwr off (joinLanes bytes)
  | .wait => .instr (.hrd (Reg.offset .status) 0)
  | .reset => .reset
  | .duringReset _ => .refuse .transactionDuringReset

/-- The host's input is taken: while a command is pending, one event fewer before its completion. A `wait` that will read BUSY = 1 goes
round its loop, so it stays at the head (30_encoding R77). -/
def takeInput (x : Input) (rest : List Input) (s : State) : State :=
  { s with
    inputs := if x = .wait ∧ s.busy = true then x :: rest else rest
    hostLeft := if s.busy then s.hostLeft - 1 else s.hostLeft }

/-- The host issues `r` before all else: the record at the head of the inputs and, while a command is pending, one more
host event before its completion. -/
def offerRecord (r : Record) (s : State) : State :=
  { s with
    inputs := .record r :: s.inputs
    hostLeft := if s.busy then s.hostLeft + 1 else s.hostLeft }

/-- The record that issues an opcode-table word: a command word is written to CMD (30_encoding R74), a record is
itself (log entry 12). -/
def tableRecord (nbits w : Nat) : Record :=
  if nbits ≤ 64 then encodeRecord true (Reg.offset .cmd) (BitVec.ofNat 64 w) else BitVec.ofNat 73 w

end Sys2Proof.Machine
end

