-- ==== Sys2Proof/Machine/Step.lean ====
section
/-! DEFINITION. One step of the unit and its surroundings: the engine's completion when it is its turn, else the host's
next input, else nothing (spec/10_state.md R20, spec/20_memory.md R55, R56, spec/60_exceptions.md R133). -/

namespace Sys2Proof.Machine

/-- One atomic step (20_memory R52): a completion, one host input, or, when the unit is idle and the host silent, the
state held as it is (60_exceptions R133; log entry 1). -/
def step (s : State) : Host.Outcome State Fault Refusal :=
  if engineTurn s then complete s
  else match s.inputs with
    | [] => .next s
    | x :: rest =>
      match eventOf x with
      | .instr i => exec i (takeInput x rest s)
      | .reset => .next (resetUnit (takeInput x rest s))
      | .refuse r => .refused r

/-- `k` steps, stopping at the first fault or refusal. -/
def steps : Nat → State → Host.Outcome State Fault Refusal
  | 0, s => .next s
  | k + 1, s =>
    match step s with
    | .next t => steps k t
    | .fault f => .fault f
    | .refused r => .refused r

/-- The host issues the opcode-table word `w` next (log entry 12). -/
def State.withFetchWord (s : State) (nbits w : Nat) : State := offerRecord (tableRecord nbits w) s

end Sys2Proof.Machine
end

