-- ==== Sys2Proof/Machine/Assembler.lean ====
section
/-! DEFINITION. The host script's statements as the inputs they issue (spec/30_encoding.md R74 to R79). -/

namespace Sys2Proof.Machine

/-- The offset a statement names (30_encoding R75, R79). -/
def targetOffset : Target → Offset
  | .name r => r.offset
  | .raw off => off

/-- `wr <reg>, <value>` (30_encoding R75). -/
def wr (t : Target) (v : Word) : Input := .record (encodeRecord true (targetOffset t) v)

/-- `rd <reg>` (30_encoding R75). -/
def rd (t : Target) : Input := .record (encodeRecord false (targetOffset t) 0)

/-- `cmd <OP>, <k>`: a write of `(k << 8) | OP` to CMD, legal or not (30_encoding R76). -/
def cmdWrite (op : BitVec 4) (k : SlotIndex) : Input :=
  wr (.name .cmd) ((k.setWidth 64 <<< 8) ||| op.setWidth 64)

/-- The expansion of a statement (30_encoding R74 to R78). -/
def expand : HostStmt → List Input
  | .rcp k => [cmdWrite 0x1 k]
  | .divr k => [cmdWrite 0x2 k]
  | .modr k => [cmdWrite 0x3 k]
  | .wr t v => [wr t v]
  | .rd t => [rd t]
  | .cmd op k => [cmdWrite op k]
  | .wait => [.wait]
  | .setd v k => [wr (.name .opd) v, cmdWrite 0x1 k, .wait]
  | .div v k => [wr (.name .opa) v, cmdWrite 0x2 k, .wait, rd (.name .result)]
  | .mod v k => [wr (.name .opa) v, cmdWrite 0x3 k, .wait, rd (.name .result)]

end Sys2Proof.Machine
end

