-- ==== Sys2Proof/Safety.lean ====
section
/-! DEFINITION. What the claims call a good state: the bank has a legal size, ERR holds a written code, a pending command
is one that accept could have latched, and a unit whose DONE and BUSY are both 0 is one in which no command has ended or
begun since reset (spec/00_scope.md R6, spec/10_state.md R34 to R36, R40, spec/40_host_access.md R91). -/

namespace Sys2Proof.Machine

/-- The accept checks still hold of the pending command (40_host_access R91; the operands cannot change, R89). -/
abbrev pendingAccepted (s : State) : Prop :=
  s.pendSlot.toNat < s.ndesc ∧
    ((s.pendOp = 1 ∧ s.opd ≠ 0) ∨
      ((s.pendOp = 2 ∨ s.pendOp = 3) ∧ (s.slotAt s.pendSlot.toNat).valid = true))

/-- The invariant of the machine. -/
structure State.Inv (s : State) : Prop where
  /-- NDESC is legal (00_scope R6). -/
  ndesc_legal : Config.ndescMin ≤ s.ndesc ∧ s.ndesc ≤ Config.ndescMax
  /-- Codes 5 to 15 are never written (10_state R36, R39). -/
  err_written : s.err.toNat ≤ 4
  /-- BUSY = 1: not DONE, ERR NONE, and a pending command that passed its checks (10_state R35, R36, R40). -/
  busy_pending : s.busy = true → s.done = false ∧ s.err = 0 ∧ pendingAccepted s
  /-- BUSY = 0 and DONE = 0: no command has ended since reset (10_state R35), so nothing is reported and RESULT is 0. -/
  quiet : s.busy = false → s.done = false →
    s.err = 0 ∧ s.errSticky = false ∧ s.overrun = false ∧ s.result = 0

/-- The inputs the spec gives no meaning (20_memory R51, R64; 70_reset R137). -/
def Input.refusedKind (x : Input) : Bool :=
  match eventOf x with
  | .refuse _ => true
  | .instr _ => false
  | .reset => false

end Sys2Proof.Machine
end

