-- ==== Sys2Proof/Certificates/Slice0/Obligations.lean ====
section
/-! DEFINITION. The statements for the provers. Each docstring names the rules of spec/ it rests on. `hostLeft` and
`draws` are the model's own fields (log entry 2): every statement holds for every value of them and of Config.latency,
and says of them only that they are left alone, or, for an accept, that they take some value. -/

open Sys2Proof Sys2Proof.Machine

/-! ### Encoding -/

/-- Words written out from 30_encoding R66, R67, R73, R74 decode to what they stand for, illegal ones are refused by
name. -/
def Obligations.SpecWordsDecode : Prop :=
  decode (.command 0x0000000000000001) = .ok (.rcp 0) ∧
  decode (.command 0x0000000000000202) = .ok (.divr 2) ∧
  decode (.command 0x0000000000000303) = .ok (.modr 3) ∧
  decode (.command 0x0000000000000000) = .error .illegalOp ∧
  decode (.command 0x0000000000000004) = .error .illegalOp ∧
  decode (.command 0x0000000000000011) = .error .reservedBits ∧
  decode (.command 0x8000000000000001) = .error .reservedBits ∧
  decode (.record 0x118000000000000000A) = .ok (.hwr 0x18 10) ∧
  decode (.record 0x0200000000000000000) = .ok (.hrd 0x20 0)

/-- Decoding and encoding are inverse, for every instruction at every operand value and for every word and record that
decodes (30_encoding R65, R66, R69, R72, R73). -/
def Obligations.DecodeAndEncodeAgree : Prop :=
  (∀ i : Instr, decode (encode i) = .ok i) ∧
  (∀ (e : Encoded) (i : Instr), decode e = .ok i → encode i = e) ∧
  (∀ r : Record, ∃ i, decode (.record r) = .ok i)

/-- The decoder accepts exactly the words that match a row of 30_encoding R67 under its mask, and reads SLOT from
[11:8]. -/
def Obligations.LegalWordsAreTheMaskRows : Prop :=
  ∀ (w : Word) (c : Command),
    decodeCommand w = .ok c ↔
      (w &&& 0xFFFFFFFFFFFFF0FF = match c.op with
        | .rcp => 0x0000000000000001
        | .divr => 0x0000000000000002
        | .modr => 0x0000000000000003) ∧
      c.slot.toNat = w.toNat / 2 ^ 8 % 2 ^ 4

/-- "Of the 2^64 command words, exactly 3 × 16 = 48 are legal. Of those, 3 × NDESC have an in-range slot" (30_encoding
R70). -/
def Obligations.FortyEightLegalCommandWords : Prop :=
  (∃ ws : List Word, ws.Nodup ∧ ws.length = 48 ∧ ∀ w, w ∈ ws ↔ ∃ c, decodeCommand w = .ok c) ∧
  (∀ n : Nat, n ≤ 12 → ∃ ws : List Word, ws.Nodup ∧ ws.length = 3 * n ∧
    ∀ w, w ∈ ws ↔ ∃ c, decodeCommand w = .ok c ∧ c.slot.toNat < n)

/-! ### The step -/

/-- When it is not the engine's turn, a record at the head of the host's transactions is decoded and run, on the state
with that transaction taken; a record that writes a legal command word to CMD runs that command (20_memory R55,
40_host_access R88; whose turn it is and the host's queue are the model's, log entries 1 and 2). -/
def Obligations.StepRunsTheDecodedRecord : Prop :=
  ∀ (s : State) (r : Record) (rest : List Input), engineTurn s = false → s.inputs = .record r :: rest →
    let t : State := { s with inputs := rest, hostLeft := if s.busy then s.hostLeft - 1 else s.hostLeft }
    step s = exec (decodeRecord r) t ∧
    ∀ c : Command, decodeRecord r = .hwr 0x00 (encodeCommand c) → step s = exec c.instr t

/-- Every opcode-table word that decodes is what the next step runs, in every state (log entry 12). -/
def Obligations.OfferedTableWordRunsNext : Prop :=
  ∀ (s : State) (nbits w : Nat) (i : Instr), decodeTableWord nbits w = some i →
    step (s.withFetchWord nbits w) = exec i s

/-- Little-endian byte lanes at RDU_BASE + off; narrower or wider accesses are refused (20_memory R51, R64). -/
def Obligations.BusAccessIsItsTransaction : Prop :=
  ∀ (s : State) (rest : List Input) (off : Offset) (w : Word), engineTurn s = false →
    let t : State := { s with inputs := rest, hostLeft := if s.busy then s.hostLeft - 1 else s.hostLeft }
    lanes w = [w.extractLsb' 0 8, w.extractLsb' 8 8, w.extractLsb' 16 8, w.extractLsb' 24 8,
      w.extractLsb' 32 8, w.extractLsb' 40 8, w.extractLsb' 48 8, w.extractLsb' 56 8] ∧
    (s.inputs = .busWrite (Config.rduBase + off.toNat) (lanes w) :: rest → step s = exec (.hwr off w) t) ∧
    (s.inputs = .busRead (Config.rduBase + off.toNat) 8 :: rest → step s = exec (.hrd off 0) t) ∧
    (∀ addr width, width ≠ 8 → s.inputs = .busRead addr width :: rest → step s = .refused .notWordAccess) ∧
    (∀ addr bytes, bytes.length ≠ 8 → s.inputs = .busWrite addr bytes :: rest →
      step s = .refused .notWordAccess)

/-- A command is the write of its word to CMD, in every state (30_encoding R74). -/
def Obligations.CommandIsItsCmdWrite : Prop :=
  ∀ (c : Command) (s : State), exec c.instr s = exec (.hwr 0x00 (encodeCommand c)) s

/-! ### Host transactions -/

/-- ReadValue of every mapped register; a read changes nothing but the response (40_host_access R80, R90, 20_memory
R53). -/
def Obligations.HostReadReturnsTheRegister : Prop :=
  ∀ (s : State) (d : Word), s.ndesc ≤ 12 →
    let answers (off : Offset) (v : Nat) : Prop :=
      v < 2 ^ 64 ∧ exec (.hrd off d) s = .next { s with resp := some ⟨BitVec.ofNat 64 v, false⟩ }
    answers 0x00 0 ∧
    answers 0x08 (s.overrun.toNat * 2 ^ 9 + s.errSticky.toNat * 2 ^ 8 + s.err.toNat * 2 ^ 4
      + s.done.toNat * 2 + s.busy.toNat) ∧
    answers 0x10 s.opa.toNat ∧
    answers 0x18 s.opd.toNat ∧
    answers 0x20 s.result.toNat ∧
    answers 0x28 (0x100 + s.ndesc) ∧
    ∀ (k : Nat) (q : Slot), s.desc[k]? = some q →
      answers (BitVec.ofNat 8 (0x40 + 16 * k)) q.m.toNat ∧
      answers (BitVec.ofNat 8 (0x48 + 16 * k)) (q.valid.toNat * 2 ^ 16 + q.sh2.toNat * 2 ^ 8 + q.sh1.toNat)

/-- Misaligned and unmapped offsets get the BusError response and change nothing else, busy or not (20_memory R47, R49,
60_exceptions R119). -/
def Obligations.BadOffsetsGetBusError : Prop :=
  ∀ (s : State) (off : Offset) (d : Word),
    (off.toNat % 8 ≠ 0 ∨ off = 0x30 ∨ off = 0x38 ∨ 0x40 + 16 * s.ndesc ≤ off.toNat) →
    exec (.hrd off d) s = .next { s with resp := some ⟨0, true⟩ } ∧
    exec (.hwr off d) s = .next { s with resp := some ⟨0, true⟩ }

/-- Every transaction at a mapped offset gets an OK response, a write's RDATA being 0 (40_host_access R80, R81,
30_encoding R72). -/
def Obligations.MappedOffsetsAnswerOk : Prop :=
  ∀ (s : State) (off : Offset) (d : Word),
    off.toNat % 8 = 0 → off ≠ 0x30 → off ≠ 0x38 → off.toNat < 0x40 + 16 * s.ndesc →
    (∃ v, exec (.hrd off d) s = .next { s with resp := some ⟨v, false⟩ }) ∧
    (∃ t, exec (.hwr off d) s = .next t ∧ t.resp = some ⟨0, false⟩ ∧ t.inputs = s.inputs)

/-- "OPA <- wdata (all 64 bits)" and the same of OPD, with BUSY = 0 (40_host_access R82, R83). -/
def Obligations.OperandWritesStoreTheWord : Prop :=
  ∀ (s : State) (v : Word), s.busy = false →
    exec (.hwr 0x10 v) s = .next { s with opa := v, resp := some ⟨0, false⟩ } ∧
    exec (.hwr 0x18 v) s = .next { s with opd := v, resp := some ⟨0, false⟩ }

/-- A write to DESC_M[k] changes M of slot k alone (40_host_access R84, 10_state R26). -/
def Obligations.DescMWriteChangesOnlyM : Prop :=
  ∀ (s : State) (k : Nat) (q : Slot) (v : Word), s.busy = false → k < 12 → s.desc[k]? = some q →
    exec (.hwr (BitVec.ofNat 8 (0x40 + 16 * k)) v) s =
      .next { s with desc := s.desc.set k { q with m := v }, resp := some ⟨0, false⟩ }

/-- A write to DESC_SH[k] stores SH1, SH2 and VALID and ignores every other bit, M stays, and a read afterwards returns
the stored fields with every other bit 0 (40_host_access R85). -/
def Obligations.DescShWriteIsWriteAnyReadLegal : Prop :=
  ∀ (s : State) (k : Nat) (q : Slot) (v : Word), s.busy = false → k < 12 → s.desc[k]? = some q →
    let off : Offset := BitVec.ofNat 8 (0x48 + 16 * k)
    let t : State := { s with
      desc := s.desc.set k { m := q.m, sh1 := v.extractLsb' 0 1, sh2 := v.extractLsb' 8 6, valid := v.getLsbD 16 }
      resp := some ⟨0, false⟩ }
    exec (.hwr off v) s = .next t ∧
    exec (.hrd off 0) t = .next { t with resp := some ⟨v &&& 0x13F01, false⟩ }

/-- Bits 8 and 9 of the data clear ERR_STICKY and OVERRUN, nothing else changes, even while BUSY = 1 (40_host_access
R86). -/
def Obligations.StatusWriteClearsStickyBits : Prop :=
  ∀ (s : State) (w : Word),
    exec (.hwr 0x08 w) s = .next { s with
      errSticky := if w.getLsbD 8 then false else s.errSticky
      overrun := if w.getLsbD 9 then false else s.overrun
      resp := some ⟨0, false⟩ }

/-- Writes to RESULT and INFO: no state changes with BUSY = 0, OVERRUN with BUSY = 1, an OK response always
(40_host_access R87). -/
def Obligations.ReadOnlyWritesAreIgnored : Prop :=
  ∀ (s : State) (v : Word) (off : Offset), (off = 0x20 ∨ off = 0x28) →
    (s.busy = false → exec (.hwr off v) s = .next { s with resp := some ⟨0, false⟩ }) ∧
    (s.busy = true → exec (.hwr off v) s = .next { s with overrun := true, resp := some ⟨0, false⟩ })

/-- While BUSY = 1 a write to any mapped, aligned offset but STATUS, and so every command, has no effect but OVERRUN
(40_host_access R89, 60_exceptions R120). -/
def Obligations.BusyWritesAreDropped : Prop :=
  ∀ (s : State), s.busy = true →
    (∀ (off : Offset) (v : Word), off.toNat % 8 = 0 → off ≠ 0x08 → off ≠ 0x30 → off ≠ 0x38 →
      off.toNat < 0x40 + 16 * s.ndesc →
      exec (.hwr off v) s = .next { s with overrun := true, resp := some ⟨0, false⟩ }) ∧
    (∀ c : Command, exec c.instr s = .next { s with overrun := true, resp := some ⟨0, false⟩ })

/-! ### Commands -/

/-- Accept: the checks in R91's order, each rejection as R93 says, and the accept that latches PEND and STATUS
(40_host_access R91, R93; 60_exceptions R121, R124). -/
def Obligations.CommandWriteRunsItsChecksInOrder : Prop :=
  ∀ (s : State) (w : Word), s.busy = false →
    let op := w.extractLsb' 0 4
    let k := w.extractLsb' 8 4
    let legal : Prop := w.extractLsb' 4 4 = 0 ∧ w.extractLsb' 12 52 = 0 ∧ (op = 1 ∨ op = 2 ∨ op = 3)
    let rejected (code : BitVec 4) : Prop :=
      exec (.hwr 0x00 w) s =
        .next { s with err := code, done := true, errSticky := true, resp := some ⟨0, false⟩ }
    (¬ legal → rejected 1) ∧
    (legal → s.desc[k.toNat]? = none → rejected 2) ∧
    (legal → ∀ q, s.desc[k.toNat]? = some q →
      (op = 1 → s.opd = 0 → rejected 3) ∧
      (op ≠ 1 → q.valid = false → rejected 4) ∧
      ((op = 1 → s.opd ≠ 0) → (op ≠ 1 → q.valid = true) →
        ∃ h n, exec (.hwr 0x00 w) s = .next { s with
          pendOp := op.extractLsb' 0 2, pendSlot := k, busy := true, done := false, err := 0
          resp := some ⟨0, false⟩, hostLeft := h, draws := n }))

/-- A command word with a reserved bit set is rejected with ILLEGAL_CMD whatever its OP and SLOT fields and the
operands hold (30_encoding R69). -/
def Obligations.ReservedBitsAreIllegal : Prop :=
  ∀ (s : State) (w : Word), s.busy = false → w &&& 0xFFFFFFFFFFFFF0F0 ≠ 0 →
    exec (.hwr 0x00 w) s =
      .next { s with err := 1, done := true, errSticky := true, resp := some ⟨0, false⟩ }

/-- RCP on a slot of the bank with a divisor other than 0 is accepted, and its completion writes the descriptor of R96,
here written out, to that slot and marks it valid, and nothing else of the operands and the bank (41 R96, R97;
40_host_access R91, R92). -/
def Obligations.RcpBuildsItsSlot : Prop :=
  ∀ (s : State) (k : SlotIndex), s.busy = false → k.toNat < s.ndesc → s.opd ≠ 0 →
    let d := s.opd.toNat
    let l := fls64 (s.opd - 1)
    ∃ h n, let t : State := { s with
      pendOp := 1, pendSlot := k, busy := true, done := false, err := 0
      resp := some ⟨0, false⟩, hostLeft := h, draws := n }
    exec (.rcp k) s = .next t ∧
    complete t = .next { t with
      desc := s.desc.set k.toNat
        { m := BitVec.ofNat 64 (2 ^ 64 * (2 ^ l - d) / d + 1), sh1 := BitVec.ofNat 1 (min l 1)
          sh2 := BitVec.ofNat 6 (max (l - 1) 0), valid := true }
      busy := false, done := true, hostLeft := 0 }

/-- DIVR on a valid slot is accepted, and its completion writes the value of R104, here in exact naturals, to RESULT
and nothing else; OPD is not read (42 R104, R105; 40_host_access R91, R92). -/
def Obligations.DivrWritesTheQuotient : Prop :=
  ∀ (s : State) (k : SlotIndex) (q : Slot), s.busy = false → s.desc[k.toNat]? = some q → q.valid = true →
    let a := s.opa.toNat
    let th := a * q.m.toNat / 2 ^ 64
    ∃ h n, let t : State := { s with
      pendOp := 2, pendSlot := k, busy := true, done := false, err := 0
      resp := some ⟨0, false⟩, hostLeft := h, draws := n }
    exec (.divr k) s = .next t ∧
    complete t = .next { t with
      result := BitVec.ofNat 64 ((th + (a - th) / 2 ^ q.sh1.toNat) / 2 ^ q.sh2.toNat)
      busy := false, done := true, hostLeft := 0 }

/-- MODR on a valid slot is accepted, and its completion writes the value of R110 to RESULT and nothing else, whatever
OPD holds (43 R110, R111, R114, R115; 40_host_access R91, R92). -/
def Obligations.ModrWritesTheRemainder : Prop :=
  ∀ (s : State) (k : SlotIndex) (q : Slot), s.busy = false → s.desc[k.toNat]? = some q → q.valid = true →
    let raw := s.opa - reciprocalDivide s.opa q.toDescriptor * s.opd
    ∃ h n, let t : State := { s with
      pendOp := 3, pendSlot := k, busy := true, done := false, err := 0
      resp := some ⟨0, false⟩, hostLeft := h, draws := n }
    exec (.modr k) s = .next t ∧
    complete t = .next { t with
      result := if raw.toNat ≥ s.opd.toNat then raw - s.opd else raw
      busy := false, done := true, hostLeft := 0 }

/-- The engine's step, when it is its turn: what it writes for each pending operation, and that it is never its turn
with BUSY = 0 and always with BUSY = 1 once no host event is left before it (40_host_access R92; log entry 2 for the
turn). -/
def Obligations.EngineStepCompletesThePendingCommand : Prop :=
  ∀ (s : State),
    (s.busy = false → engineTurn s = false) ∧
    (s.busy = true → (s.hostLeft = 0 ∨ s.inputs = []) → s.pendSlot.toNat < s.ndesc →
      (∀ r, s.pendOp = 1 → computeReciprocal s.opd = some r →
        step s = .next { s with
          desc := s.desc.set s.pendSlot.toNat ⟨r, true⟩, busy := false, done := true, hostLeft := 0 }) ∧
      (∀ q, s.pendOp = 2 → s.desc[s.pendSlot.toNat]? = some q →
        step s = .next { s with
          result := reciprocalDivide s.opa q.toDescriptor, busy := false, done := true, hostLeft := 0 }) ∧
      (∀ q, s.pendOp = 3 → s.desc[s.pendSlot.toNat]? = some q →
        step s = .next { s with
          result := reciprocalRemainder s.opa s.opd q.toDescriptor, busy := false, done := true, hostLeft := 0 }))

/-! ### Arithmetic -/

/-- `fls64` is the bit length: 0 for 0, and 2^(n-1) ≤ x < 2^n for n = fls64 x otherwise (00_scope R10). -/
def Obligations.FindLastSetIsTheBitLength : Prop :=
  fls64 0 = 0 ∧ fls64 1 = 1 ∧ fls64 (BitVec.allOnes 64) = 64 ∧
  ∀ x : Word, x.toNat < 2 ^ fls64 x ∧ fls64 x ≤ 64 ∧ (x ≠ 0 → 1 ≤ fls64 x ∧ 2 ^ (fls64 x - 1) ≤ x.toNat)

/-- `mulhi64` is bits [127:64] of the exact 128-bit product (00_scope R11). -/
def Obligations.MulhiIsTheHighHalfOfTheProduct : Prop :=
  ∀ a m : Word,
    mulhi64 a m = (a.setWidth 128 * m.setWidth 128).extractLsb' 64 64 ∧
    (mulhi64 a m).toNat * 2 ^ 64 ≤ a.toNat * m.toNat ∧ a.toNat * m.toNat < ((mulhi64 a m).toNat + 1) * 2 ^ 64

/-- The ranges of the construction's intermediates (41 R98). -/
def Obligations.ReciprocalIntermediatesFit : Prop :=
  ∀ d : Word, d ≠ 0 →
    let l := fls64 (d - 1)
    let v := 2 ^ 64 * (2 ^ l - d.toNat)
    (d = 1 → l = 0 ∧ 2 ^ l - d.toNat = 0 ∧ v = 0) ∧
    (d ≠ 1 → 2 ^ (l - 1) < d.toNat ∧ d.toNat ≤ 2 ^ l ∧ 1 ≤ l ∧ l ≤ 64 ∧
      2 ^ l - d.toNat < 2 ^ (l - 1) ∧ 2 ^ (l - 1) ≤ 2 ^ 63 ∧ v < 2 ^ 127) ∧
    (l = 64 → 2 ^ l - d.toNat = (0 - d).toNat)

/-- The exact multiplier: m = floor(2^(64+l) / d) - 2^64 + 1, its range, when it is 1, and where the largest value
occurs (41 R99). -/
def Obligations.ReciprocalMultiplierIsExact : Prop :=
  (∀ (d : Word) (r : Descriptor), computeReciprocal d = some r →
    r.m.toNat + 2 ^ 64 = 2 ^ (64 + fls64 (d - 1)) / d.toNat + 1 ∧
    1 ≤ r.m.toNat ∧ r.m.toNat ≤ 2 ^ 64 - 3 ∧
    (r.m = 1 ↔ ∃ k, d.toNat = 2 ^ k)) ∧
  ∃ r, computeReciprocal 0x8000000000000001 = some r ∧ r.m = 0xFFFFFFFFFFFFFFFD

/-- The shift values (41 R100). -/
def Obligations.ReciprocalShiftsAreInRange : Prop :=
  ∀ (d : Word) (r : Descriptor), computeReciprocal d = some r →
    (d = 1 → r.sh1 = 0 ∧ r.sh2 = 0) ∧
    (d ≠ 1 → r.sh1 = 1 ∧ r.sh2.toNat + 1 = fls64 (d - 1) ∧ r.sh2.toNat ≤ 63)

/-- The zero divisor: no descriptor of 0, RCP with OPD = 0 is rejected with every slot unchanged, and a completion that
would apply the construction to 0 refuses (41 R101). -/
def Obligations.ZeroDivisorIsRejected : Prop :=
  computeReciprocal 0 = none ∧
  (∀ (s : State) (k : SlotIndex), s.busy = false → k.toNat < s.ndesc → s.opd = 0 →
    exec (.rcp k) s =
      .next { s with err := 3, done := true, errSticky := true, resp := some ⟨0, false⟩ }) ∧
  (∀ s : State, s.pendOp = 1 → s.pendSlot.toNat < s.ndesc → s.opd = 0 →
    complete s = .refused .reciprocalOfZero)

/-- Power-of-two divisors (41 R102). -/
def Obligations.PowerOfTwoDivisorsShift : Prop :=
  ∀ k : Nat, k ≤ 63 →
    let r : Descriptor := { m := 1, sh1 := BitVec.ofNat 1 (min k 1), sh2 := BitVec.ofNat 6 (max (k - 1) 0) }
    computeReciprocal (BitVec.ofNat 64 (2 ^ k)) = some r ∧ ∀ a : Word, reciprocalDivide a r = a >>> k

/-- reciprocalDivide in exact naturals for every descriptor: no intermediate overflows and the result is at most the
dividend (42 R104, R107). -/
def Obligations.DivideNeverOverflows : Prop :=
  ∀ (a : Word) (r : Descriptor),
    let t := a.toNat * r.m.toNat / 2 ^ 64
    let u := (a.toNat - t) / 2 ^ r.sh1.toNat
    (mulhi64 a r.m).toNat = t ∧ t ≤ a.toNat ∧ t + u ≤ a.toNat ∧
    (reciprocalDivide a r).toNat = (t + u) / 2 ^ r.sh2.toNat ∧ (reciprocalDivide a r).toNat ≤ a.toNat

/-- The exactness guarantee of the divide, on the functions and on the unit: RCP with OPD = d, completed, then DIVR on
the same slot with any OPA, completed, leaves floor(OPA / d) in RESULT (42 R106). -/
def Obligations.ReciprocalDivideIsExact : Prop :=
  (∀ a d : Word, d ≠ 0 →
    ∃ r, computeReciprocal d = some r ∧ (reciprocalDivide a r).toNat = a.toNat / d.toNat) ∧
  (∀ (s : State) (k : SlotIndex) (a : Word), s.busy = false → k.toNat < s.ndesc → s.opd ≠ 0 →
    ∃ t₁ t₂ t₃ t₄, exec (.rcp k) s = .next t₁ ∧ complete t₁ = .next t₂ ∧
      exec (.divr k) { t₂ with opa := a } = .next t₃ ∧ complete t₃ = .next t₄ ∧
      t₄.result.toNat = a.toNat / s.opd.toNat ∧ t₄.busy = false ∧ t₄.done = true ∧ t₄.err = 0)

/-- The exactness guarantee of the remainder, on the functions and on the unit (43 R112). -/
def Obligations.ReciprocalRemainderIsExact : Prop :=
  (∀ a d : Word, d ≠ 0 →
    ∃ r, computeReciprocal d = some r ∧ (reciprocalRemainder a d r).toNat = a.toNat % d.toNat) ∧
  (∀ (s : State) (k : SlotIndex) (a : Word), s.busy = false → k.toNat < s.ndesc → s.opd ≠ 0 →
    ∃ t₁ t₂ t₃ t₄, exec (.rcp k) s = .next t₁ ∧ complete t₁ = .next t₂ ∧
      exec (.modr k) { t₂ with opa := a } = .next t₃ ∧ complete t₃ = .next t₄ ∧
      t₄.result.toNat = a.toNat % s.opd.toNat ∧ t₄.busy = false ∧ t₄.done = true ∧ t₄.err = 0)

/-- With a matching descriptor nothing wraps and the correction's test is false (43 R113). -/
def Obligations.MatchingRemainderNeedsNoCorrection : Prop :=
  ∀ (a d : Word) (r : Descriptor), computeReciprocal d = some r →
    (reciprocalDivide a r).toNat * d.toNat ≤ a.toNat ∧
    (a - reciprocalDivide a r * d).toNat = a.toNat % d.toNat ∧
    ¬ d.toNat ≤ (a - reciprocalDivide a r * d).toNat

/-- reciprocalRemainder in naturals modulo 2^64, for every dividend, divisor and descriptor: one wrapping multiply, one
wrapping subtract, at most one correction (43 R110, R116). -/
def Obligations.RemainderWrapsModulo : Prop :=
  ∀ (a d : Word) (r : Descriptor),
    let q := (reciprocalDivide a r).toNat
    let r₀ := (a.toNat + 2 ^ 64 - q * d.toNat % 2 ^ 64) % 2 ^ 64
    (reciprocalRemainder a d r).toNat = if r₀ ≥ d.toNat then r₀ - d.toNat else r₀

/-- MODR with OPD = 0 is accepted on a valid slot, raises no error and gives RESULT = OPA, whatever the slot
(43 R115). -/
def Obligations.ModrByZeroReturnsTheDividend : Prop :=
  ∀ (s : State) (k : SlotIndex) (q : Slot), s.busy = false → s.desc[k.toNat]? = some q → q.valid = true →
    s.opd = 0 →
    ∃ t u, exec (.modr k) s = .next t ∧ complete t = .next u ∧
      u.result = s.opa ∧ u.err = 0 ∧ u.errSticky = s.errSticky ∧ u.done = true ∧ u.desc = s.desc

/-! ### Reset and the invariant -/

/-- The reset values of 10_state R43, in the reference configuration. -/
def Obligations.ResetValues : Prop :=
  State.reset.opa = 0 ∧ State.reset.opd = 0 ∧ State.reset.result = 0 ∧ State.reset.ndesc = 4 ∧
  (∀ k < 4, State.reset.desc[k]? = some { m := 0, sh1 := 0, sh2 := 0, valid := false }) ∧
  exec (.hrd 0x08 0) State.reset = .next { State.reset with resp := some ⟨0, false⟩ } ∧
  exec (.hrd 0x28 0) State.reset = .next { State.reset with resp := some ⟨0x104, false⟩ } ∧
  exec (.hrd 0x00 0) State.reset = .next { State.reset with resp := some ⟨0, false⟩ } ∧
  State.reset.busy = false ∧ State.reset.pendOp = 0 ∧ State.reset.pendSlot = 0

/-- The reset event: every state element at its reset value, whatever was in flight, INFO as before (70_reset R135;
reset as one input of the queue is log entry 14). -/
def Obligations.ResetEventAbandonsTheCommand : Prop :=
  ∀ (s : State) (rest : List Input), engineTurn s = false → s.inputs = .reset :: rest →
    ∃ t, step s = .next t ∧
      t.opa = 0 ∧ t.opd = 0 ∧ t.result = 0 ∧ t.desc.length = s.desc.length ∧
      (∀ k < s.desc.length, t.desc[k]? = some { m := 0, sh1 := 0, sh2 := 0, valid := false }) ∧
      t.busy = false ∧ t.done = false ∧ t.err = 0 ∧ t.errSticky = false ∧ t.overrun = false ∧
      t.inputs = rest ∧ engineTurn t = false ∧ infoWord t.ndesc = infoWord s.ndesc

/-- The reset state is good (10_state R43; the invariant's clauses are R6, R35, R36, R40, R91). -/
def Obligations.ResetIsGood : Prop := State.reset.Inv

/-- Every step of every good state gives a good state. -/
def Obligations.EveryStepKeepsTheUnitGood : Prop :=
  ∀ s t : State, s.Inv → step s = .next t → t.Inv

/-- A good state never faults, and it refuses only an input the spec gives no meaning (the inputs of log entries 5, 6
and 7): completion raises no error (40_host_access R92), no transaction stops the unit (60_exceptions R117), and no
undefined behaviour remains (R134). -/
def Obligations.GoodUnitNeverStops : Prop :=
  ∀ s : State, s.Inv →
    (∃ t, step s = .next t) ∨
    (engineTurn s = false ∧ ∃ x rest q, s.inputs = x :: rest ∧ x.refusedKind = true ∧ step s = .refused q)

/-! ### Rules of the whole machine -/

/-- While a command is pending, no step but its completion and reset changes its operands, the bank, RESULT, PEND or
BUSY, DONE and ERR (40_host_access R89, R95; 20_memory R60). -/
def Obligations.PendingCommandIsUndisturbed : Prop :=
  ∀ s t : State, s.busy = true → engineTurn s = false → step s = .next t →
    (∃ rest, s.inputs = .reset :: rest) ∨
    (t.opa = s.opa ∧ t.opd = s.opd ∧ t.desc = s.desc ∧ t.result = s.result ∧
      t.pendOp = s.pendOp ∧ t.pendSlot = s.pendSlot ∧
      t.busy = true ∧ t.done = s.done ∧ t.err = s.err ∧ t.errSticky.toNat ≤ s.errSticky.toNat)

/-- RESULT is written only by the completion of DIVR or MODR and by reset (10_state R30). -/
def Obligations.ResultChangesOnlyByDivision : Prop :=
  ∀ s t : State, step s = .next t → t.result ≠ s.result →
    (engineTurn s = true ∧ (s.pendOp = 2 ∨ s.pendOp = 3)) ∨
    (engineTurn s = false ∧ ∃ rest, s.inputs = .reset :: rest)

/-- OPA and OPD are written only by a host write to them with BUSY = 0, which stores its data, and by reset; no command
writes them (10_state R22, R23). -/
def Obligations.OperandsChangeOnlyByHostWrite : Prop :=
  ∀ s t : State, step s = .next t →
    (t.opa ≠ s.opa → engineTurn s = false ∧ ∃ x rest, s.inputs = x :: rest ∧
      (x = .reset ∨ (s.busy = false ∧ eventOf x = .instr (.hwr 0x10 t.opa)))) ∧
    (t.opd ≠ s.opd → engineTurn s = false ∧ ∃ x rest, s.inputs = x :: rest ∧
      (x = .reset ∨ (s.busy = false ∧ eventOf x = .instr (.hwr 0x18 t.opd))))

/-- VALID is cleared only by reset or by a host write to DESC_SH of that slot with bit 16 clear (10_state R29). -/
def Obligations.ValidIsClearedOnlyByHostOrReset : Prop :=
  ∀ (s t : State) (j : Nat) (p q : Slot), step s = .next t →
    s.desc[j]? = some p → p.valid = true → t.desc[j]? = some q → q.valid = false →
    engineTurn s = false ∧ ∃ x rest, s.inputs = x :: rest ∧
      (x = .reset ∨ (s.busy = false ∧ j < 12 ∧ ∃ w : Word, w.getLsbD 16 = false ∧
        eventOf x = .instr (.hwr (BitVec.ofNat 8 (0x48 + 16 * j)) w)))

/-- ERR_STICKY and OVERRUN are cleared only by a host write to STATUS with their bit set and by reset (10_state R37,
R38). -/
def Obligations.StickyBitsAreClearedOnlyByHostOrReset : Prop :=
  ∀ s t : State, step s = .next t →
    (s.errSticky = true → t.errSticky = false → engineTurn s = false ∧ ∃ x rest, s.inputs = x :: rest ∧
      (x = .reset ∨ ∃ w : Word, w.getLsbD 8 = true ∧ eventOf x = .instr (.hwr 0x08 w))) ∧
    (s.overrun = true → t.overrun = false → engineTurn s = false ∧ ∃ x rest, s.inputs = x :: rest ∧
      (x = .reset ∨ ∃ w : Word, w.getLsbD 9 = true ∧ eventOf x = .instr (.hwr 0x08 w)))

/-- BUSY is cleared only by completion and reset, and set only by the accept of a command (10_state R34, 20_memory
R57). -/
def Obligations.BusyChangesOnlyByItsEvents : Prop :=
  ∀ s t : State, step s = .next t →
    (s.busy = true → t.busy = false → engineTurn s = true ∨ ∃ rest, s.inputs = .reset :: rest) ∧
    (s.busy = false → t.busy = true → ∃ (x : Input) (rest : List Input) (c : Command), s.inputs = x :: rest ∧
      eventOf x = .instr (.hwr 0x00 (encodeCommand c)) ∧ c.slot.toNat < s.ndesc ∧
      t.pendOp = pendCode c.op ∧ t.pendSlot = c.slot)

/-- The completion's result depends only on PEND, on the named slot, and on the operands the operation reads: DIVR does
not read OPD, RCP reads neither OPA nor the slot; no other slot is read or written (40_host_access R92, 10_state R25,
30_encoding R68). -/
def Obligations.CompletionReadsOnlyItsOperands : Prop :=
  ∀ s t s' : State, s.pendOp = t.pendOp → s.pendSlot = t.pendSlot → s.ndesc = t.ndesc →
    (s.pendOp ≠ 1 → s.opa = t.opa ∧ s.desc[s.pendSlot.toNat]? = t.desc[s.pendSlot.toNat]?) →
    (s.pendOp ≠ 2 → s.opd = t.opd) → complete s = .next s' →
    ∃ t', complete t = .next t' ∧
      (s.pendOp = 1 → t'.desc[s.pendSlot.toNat]? = s'.desc[s.pendSlot.toNat]? ∧ t'.result = t.result) ∧
      (s.pendOp ≠ 1 → t'.result = s'.result ∧ t'.desc = t.desc) ∧
      (∀ j, j ≠ s.pendSlot.toNat → t'.desc[j]? = t.desc[j]?)

/-- A descriptor saved by reading its two registers and restored by writing both back is the same descriptor, VALID
included, on any unit with that slot that is not busy (40_host_access R84, 70_reset R144). -/
def Obligations.SavedDescriptorRestores : Prop :=
  ∀ (s t : State) (k : Nat) (q p : Slot), k < 12 → s.desc[k]? = some q → t.desc[k]? = some p → t.busy = false →
    let offM : Offset := BitVec.ofNat 8 (0x40 + 16 * k)
    let offSh : Offset := BitVec.ofNat 8 (0x48 + 16 * k)
    ∃ vm vsh, exec (.hrd offM 0) s = .next { s with resp := some ⟨vm, false⟩ } ∧
      exec (.hrd offSh 0) s = .next { s with resp := some ⟨vsh, false⟩ } ∧
      ∃ t₁, exec (.hwr offM vm) t = .next t₁ ∧
        exec (.hwr offSh vsh) t₁ =
          .next { t with desc := t.desc.set k q, resp := some ⟨0, false⟩ }

/-! ### Progress -/

/-- From every good state the host's `wait` ends: after finitely many steps its last STATUS read has answered with
BUSY = 0 and the code of the last command in bits [7:4] (30_encoding R77, 40_host_access R94; fairness is log
entry 2). -/
def Obligations.WaitEnds : Prop :=
  ∀ (s : State) (rest : List Input), s.Inv → s.inputs = .wait :: rest →
    ∃ n t v, steps n s = .next t ∧ t.busy = false ∧ t.inputs = rest ∧ t.Inv ∧
      t.resp = some ⟨v, false⟩ ∧ v.getLsbD 0 = false ∧ v.extractLsb' 4 4 = t.err

/-- From every good idle state, `setd d, k` and then `div a, k` end, with floor(a / d) answered by the last read,
wherever the completions fall (30_encoding R78, 42 R106, 20_memory R56; log entry 2). -/
def Obligations.SetdThenDivAnswersTheQuotient : Prop :=
  ∀ (s : State) (d a : Word) (k : SlotIndex) (rest : List Input), s.Inv → s.busy = false → d ≠ 0 →
    k.toNat < s.ndesc → s.inputs = expand (.setd d k) ++ expand (.div a k) ++ rest →
    ∃ n t, steps n s = .next t ∧ t.inputs = rest ∧ t.busy = false ∧ t.err = 0 ∧
      t.resp = some ⟨BitVec.ofNat 64 (a.toNat / d.toNat), false⟩

/-- From every good idle state, `setd d, k` and then `mod a, k` end, with a mod d answered by the last read, wherever
the completions fall (30_encoding R78, 43 R112, 20_memory R56; log entry 2). -/
def Obligations.SetdThenModAnswersTheRemainder : Prop :=
  ∀ (s : State) (d a : Word) (k : SlotIndex) (rest : List Input), s.Inv → s.busy = false → d ≠ 0 →
    k.toNat < s.ndesc → s.inputs = expand (.setd d k) ++ expand (.mod a k) ++ rest →
    ∃ n t, steps n s = .next t ∧ t.inputs = rest ∧ t.busy = false ∧ t.err = 0 ∧
      t.resp = some ⟨BitVec.ofNat 64 (a.toNat % d.toNat), false⟩

/-- The busy hazard: a write of OPD right after an accepted RCP, without waiting, is either performed or dropped with
OVERRUN; the slot is built from the old divisor in both cases (70_reset R141, 93 U12; the moment
of completion is log entry 2). -/
def Obligations.WriteWithoutWaitHasTwoOutcomes : Prop :=
  ∀ (s : State) (k : SlotIndex) (v : Word) (rest : List Input), s.Inv → s.busy = false → s.opd ≠ 0 →
    k.toNat < s.ndesc → s.inputs = expand (.rcp k) ++ expand (.wr (.name .opd) v) ++ expand .wait ++ rest →
    ∃ n t r, steps n s = .next t ∧ t.inputs = rest ∧ t.busy = false ∧
      computeReciprocal s.opd = some r ∧ t.desc = s.desc.set k.toNat ⟨r, true⟩ ∧
      ((t.opd = v ∧ t.overrun = s.overrun) ∨ (t.opd = s.opd ∧ t.overrun = true))
end

