-- ==== Sys2Proof/Laws/Decode.lean ====
section
/-! SUPPORT. The fields of an encoded record and of an encoded command word, and the two halves of each round trip. -/

namespace Sys2Proof

/-- Bit `i` of a record, by field. -/
theorem encodeRecord_getLsbD (b : Bool) (off : Offset) (v : Word) (i : Nat) :
    (encodeRecord b off v).getLsbD i =
      if i < 64 then v.getLsbD i
      else if i - 64 < 8 then off.getLsbD (i - 64)
      else (BitVec.ofBool b).getLsbD (i - 64 - 8) := by
  have h1 := BitVec.getLsbD_append (x := BitVec.ofBool b ++ off) (y := v) (i := i)
  have h2 := BitVec.getLsbD_append (x := BitVec.ofBool b) (y := off) (i := i - 64)
  rw [h2] at h1
  exact h1.trans (by cases h : decide (i < 64) <;> cases h' : decide (i - 64 < 8) <;> simp_all)

theorem encodeRecord_write (b : Bool) (off : Offset) (v : Word) : (encodeRecord b off v).getLsbD 72 = b := by
  rw [encodeRecord_getLsbD]; cases b <;> rfl

theorem encodeRecord_offset (b : Bool) (off : Offset) (v : Word) :
    (encodeRecord b off v).extractLsb' 64 8 = off := by
  apply BitVec.eq_of_getLsbD_eq
  intro i hi
  rw [BitVec.getLsbD_extractLsb', encodeRecord_getLsbD]
  simp [hi]

theorem encodeRecord_data (b : Bool) (off : Offset) (v : Word) : (encodeRecord b off v).extractLsb' 0 64 = v := by
  apply BitVec.eq_of_getLsbD_eq
  intro i hi
  rw [BitVec.getLsbD_extractLsb', encodeRecord_getLsbD]
  simp [hi]

theorem decodeRecord_encodeRecord (b : Bool) (off : Offset) (v : Word) :
    decodeRecord (encodeRecord b off v) = if b then .hwr off v else .hrd off v := by
  simp only [decodeRecord, encodeRecord_write, encodeRecord_offset, encodeRecord_data]

/-- A record is its three fields. -/
theorem encodeRecord_fields (r : Record) :
    encodeRecord (r.getLsbD 72) (r.extractLsb' 64 8) (r.extractLsb' 0 64) = r := by
  apply BitVec.eq_of_getLsbD_eq
  intro i hi
  rw [encodeRecord_getLsbD]
  by_cases h1 : i < 64
  · simp [h1]
  · by_cases h2 : i - 64 < 8
    · simp [h1, h2]; congr 1; omega
    · have : i = 72 := by omega
      subst this
      cases hb : r.getLsbD 72 <;> simp

theorem decodeCommand_encodeCommand (c : Command) : decodeCommand (encodeCommand c) = .ok c := by
  obtain ⟨op, k⟩ := c
  cases op <;> revert k <;> decide

/-- Bit `i` of four fields laid out as a command word is. -/
theorem commandFields_getLsbD (a : BitVec 52) (b c d : BitVec 4) (i : Nat) :
    BitVec.getLsbD (w := 64) (a ++ b ++ c ++ d) i =
      if i < 4 then d.getLsbD i
      else if i - 4 < 4 then c.getLsbD (i - 4)
      else if i - 4 - 4 < 4 then b.getLsbD (i - 4 - 4)
      else a.getLsbD (i - 4 - 4 - 4) := by
  have h1 := BitVec.getLsbD_append (x := a ++ b ++ c) (y := d) (i := i)
  have h2 := BitVec.getLsbD_append (x := a ++ b) (y := c) (i := i - 4)
  have h3 := BitVec.getLsbD_append (x := a) (y := b) (i := i - 4 - 4)
  rw [h2, h3] at h1
  refine h1.trans ?_
  cases h : decide (i < 4) <;> cases h' : decide (i - 4 < 4) <;> cases h'' : decide (i - 4 - 4 < 4) <;> simp_all

/-- A command word is its four fields. -/
theorem commandFields (w : Word) :
    (w.extractLsb' 12 52 ++ w.extractLsb' 8 4 ++ w.extractLsb' 4 4 ++ w.extractLsb' 0 4 : BitVec 64) = w := by
  apply BitVec.eq_of_getLsbD_eq
  intro i hi
  rw [commandFields_getLsbD]
  simp only [BitVec.getLsbD_extractLsb']
  split_ifs with h1 h2 h3
  · simp [h1]
  · simp [h2]; congr 1; omega
  · simp [h3]; congr 1; omega
  · rw [decide_eq_true (by omega : i - 4 - 4 - 4 < 52)]; simp; congr 1; omega

theorem opOfField_eq_some : ∀ {f : BitVec 4} {op : CmdOp}, opOfField f = some op ↔ f = op.field := by
  intro f op; cases op <;> revert f <;> decide

/-- What the decoder accepts, it read whole: no bit of the word is dropped. -/
theorem encodeCommand_of_decodeCommand {w : Word} {c : Command} (h : decodeCommand w = .ok c) :
    encodeCommand c = w := by
  unfold decodeCommand at h
  split at h
  · simp at h
  · rename_i hr
    simp only [not_or, not_not] at hr
    split at h
    · rename_i op hop
      have hf := opOfField_eq_some.mp hop
      have hw := commandFields w
      rw [hr.1, hr.2, hf] at hw
      rw [← Except.ok.inj h]
      exact hw
    · simp at h

end Sys2Proof
end

