-- ==== Sys2Proof/Laws/State.lean ====
section
/-! SUPPORT. One lemma per field per update of State, each by rfl. -/

namespace Sys2Proof.Machine

@[simp] theorem respond_opa (v : Word) (e : Bool) (s : State) : (respond v e s).opa = s.opa := rfl
@[simp] theorem respond_opd (v : Word) (e : Bool) (s : State) : (respond v e s).opd = s.opd := rfl
@[simp] theorem respond_result (v : Word) (e : Bool) (s : State) : (respond v e s).result = s.result := rfl
@[simp] theorem respond_desc (v : Word) (e : Bool) (s : State) : (respond v e s).desc = s.desc := rfl
@[simp] theorem respond_busy (v : Word) (e : Bool) (s : State) : (respond v e s).busy = s.busy := rfl
@[simp] theorem respond_done (v : Word) (e : Bool) (s : State) : (respond v e s).done = s.done := rfl
@[simp] theorem respond_err (v : Word) (e : Bool) (s : State) : (respond v e s).err = s.err := rfl
@[simp] theorem respond_errSticky (v : Word) (e : Bool) (s : State) : (respond v e s).errSticky = s.errSticky := rfl
@[simp] theorem respond_overrun (v : Word) (e : Bool) (s : State) : (respond v e s).overrun = s.overrun := rfl
@[simp] theorem respond_pendOp (v : Word) (e : Bool) (s : State) : (respond v e s).pendOp = s.pendOp := rfl
@[simp] theorem respond_pendSlot (v : Word) (e : Bool) (s : State) : (respond v e s).pendSlot = s.pendSlot := rfl
@[simp] theorem respond_resp (v : Word) (e : Bool) (s : State) : (respond v e s).resp = some ⟨v, e⟩ := rfl
@[simp] theorem respond_inputs (v : Word) (e : Bool) (s : State) : (respond v e s).inputs = s.inputs := rfl
@[simp] theorem respond_hostLeft (v : Word) (e : Bool) (s : State) : (respond v e s).hostLeft = s.hostLeft := rfl
@[simp] theorem respond_draws (v : Word) (e : Bool) (s : State) : (respond v e s).draws = s.draws := rfl

@[simp] theorem respondOk_opa (s : State) : (respondOk s).opa = s.opa := rfl
@[simp] theorem respondOk_opd (s : State) : (respondOk s).opd = s.opd := rfl
@[simp] theorem respondOk_result (s : State) : (respondOk s).result = s.result := rfl
@[simp] theorem respondOk_desc (s : State) : (respondOk s).desc = s.desc := rfl
@[simp] theorem respondOk_busy (s : State) : (respondOk s).busy = s.busy := rfl
@[simp] theorem respondOk_done (s : State) : (respondOk s).done = s.done := rfl
@[simp] theorem respondOk_err (s : State) : (respondOk s).err = s.err := rfl
@[simp] theorem respondOk_errSticky (s : State) : (respondOk s).errSticky = s.errSticky := rfl
@[simp] theorem respondOk_overrun (s : State) : (respondOk s).overrun = s.overrun := rfl
@[simp] theorem respondOk_pendOp (s : State) : (respondOk s).pendOp = s.pendOp := rfl
@[simp] theorem respondOk_pendSlot (s : State) : (respondOk s).pendSlot = s.pendSlot := rfl
@[simp] theorem respondOk_resp (s : State) : (respondOk s).resp = some ⟨0, false⟩ := rfl
@[simp] theorem respondOk_inputs (s : State) : (respondOk s).inputs = s.inputs := rfl
@[simp] theorem respondOk_hostLeft (s : State) : (respondOk s).hostLeft = s.hostLeft := rfl
@[simp] theorem respondOk_draws (s : State) : (respondOk s).draws = s.draws := rfl

@[simp] theorem busError_opa (s : State) : (busError s).opa = s.opa := rfl
@[simp] theorem busError_opd (s : State) : (busError s).opd = s.opd := rfl
@[simp] theorem busError_result (s : State) : (busError s).result = s.result := rfl
@[simp] theorem busError_desc (s : State) : (busError s).desc = s.desc := rfl
@[simp] theorem busError_busy (s : State) : (busError s).busy = s.busy := rfl
@[simp] theorem busError_done (s : State) : (busError s).done = s.done := rfl
@[simp] theorem busError_err (s : State) : (busError s).err = s.err := rfl
@[simp] theorem busError_errSticky (s : State) : (busError s).errSticky = s.errSticky := rfl
@[simp] theorem busError_overrun (s : State) : (busError s).overrun = s.overrun := rfl
@[simp] theorem busError_pendOp (s : State) : (busError s).pendOp = s.pendOp := rfl
@[simp] theorem busError_pendSlot (s : State) : (busError s).pendSlot = s.pendSlot := rfl
@[simp] theorem busError_resp (s : State) : (busError s).resp = some ⟨0, true⟩ := rfl
@[simp] theorem busError_inputs (s : State) : (busError s).inputs = s.inputs := rfl
@[simp] theorem busError_hostLeft (s : State) : (busError s).hostLeft = s.hostLeft := rfl
@[simp] theorem busError_draws (s : State) : (busError s).draws = s.draws := rfl

@[simp] theorem setSlot_opa (k : Nat) (d : Slot) (s : State) : (setSlot k d s).opa = s.opa := rfl
@[simp] theorem setSlot_opd (k : Nat) (d : Slot) (s : State) : (setSlot k d s).opd = s.opd := rfl
@[simp] theorem setSlot_result (k : Nat) (d : Slot) (s : State) : (setSlot k d s).result = s.result := rfl
@[simp] theorem setSlot_desc (k : Nat) (d : Slot) (s : State) : (setSlot k d s).desc = s.desc.set k d := rfl
@[simp] theorem setSlot_busy (k : Nat) (d : Slot) (s : State) : (setSlot k d s).busy = s.busy := rfl
@[simp] theorem setSlot_done (k : Nat) (d : Slot) (s : State) : (setSlot k d s).done = s.done := rfl
@[simp] theorem setSlot_err (k : Nat) (d : Slot) (s : State) : (setSlot k d s).err = s.err := rfl
@[simp] theorem setSlot_errSticky (k : Nat) (d : Slot) (s : State) : (setSlot k d s).errSticky = s.errSticky := rfl
@[simp] theorem setSlot_overrun (k : Nat) (d : Slot) (s : State) : (setSlot k d s).overrun = s.overrun := rfl
@[simp] theorem setSlot_pendOp (k : Nat) (d : Slot) (s : State) : (setSlot k d s).pendOp = s.pendOp := rfl
@[simp] theorem setSlot_pendSlot (k : Nat) (d : Slot) (s : State) : (setSlot k d s).pendSlot = s.pendSlot := rfl
@[simp] theorem setSlot_resp (k : Nat) (d : Slot) (s : State) : (setSlot k d s).resp = s.resp := rfl
@[simp] theorem setSlot_inputs (k : Nat) (d : Slot) (s : State) : (setSlot k d s).inputs = s.inputs := rfl
@[simp] theorem setSlot_hostLeft (k : Nat) (d : Slot) (s : State) : (setSlot k d s).hostLeft = s.hostLeft := rfl
@[simp] theorem setSlot_draws (k : Nat) (d : Slot) (s : State) : (setSlot k d s).draws = s.draws := rfl

@[simp] theorem setAccepted_opa (s : State) : (setAccepted s).opa = s.opa := rfl
@[simp] theorem setAccepted_opd (s : State) : (setAccepted s).opd = s.opd := rfl
@[simp] theorem setAccepted_result (s : State) : (setAccepted s).result = s.result := rfl
@[simp] theorem setAccepted_desc (s : State) : (setAccepted s).desc = s.desc := rfl
@[simp] theorem setAccepted_busy (s : State) : (setAccepted s).busy = true := rfl
@[simp] theorem setAccepted_done (s : State) : (setAccepted s).done = false := rfl
@[simp] theorem setAccepted_err (s : State) : (setAccepted s).err = 0 := rfl
@[simp] theorem setAccepted_errSticky (s : State) : (setAccepted s).errSticky = s.errSticky := rfl
@[simp] theorem setAccepted_overrun (s : State) : (setAccepted s).overrun = s.overrun := rfl
@[simp] theorem setAccepted_pendOp (s : State) : (setAccepted s).pendOp = s.pendOp := rfl
@[simp] theorem setAccepted_pendSlot (s : State) : (setAccepted s).pendSlot = s.pendSlot := rfl
@[simp] theorem setAccepted_resp (s : State) : (setAccepted s).resp = s.resp := rfl
@[simp] theorem setAccepted_inputs (s : State) : (setAccepted s).inputs = s.inputs := rfl
@[simp] theorem setAccepted_hostLeft (s : State) : (setAccepted s).hostLeft = s.hostLeft := rfl
@[simp] theorem setAccepted_draws (s : State) : (setAccepted s).draws = s.draws := rfl

@[simp] theorem setCompleted_opa (s : State) : (setCompleted s).opa = s.opa := rfl
@[simp] theorem setCompleted_opd (s : State) : (setCompleted s).opd = s.opd := rfl
@[simp] theorem setCompleted_result (s : State) : (setCompleted s).result = s.result := rfl
@[simp] theorem setCompleted_desc (s : State) : (setCompleted s).desc = s.desc := rfl
@[simp] theorem setCompleted_busy (s : State) : (setCompleted s).busy = false := rfl
@[simp] theorem setCompleted_done (s : State) : (setCompleted s).done = true := rfl
@[simp] theorem setCompleted_err (s : State) : (setCompleted s).err = s.err := rfl
@[simp] theorem setCompleted_errSticky (s : State) : (setCompleted s).errSticky = s.errSticky := rfl
@[simp] theorem setCompleted_overrun (s : State) : (setCompleted s).overrun = s.overrun := rfl
@[simp] theorem setCompleted_pendOp (s : State) : (setCompleted s).pendOp = s.pendOp := rfl
@[simp] theorem setCompleted_pendSlot (s : State) : (setCompleted s).pendSlot = s.pendSlot := rfl
@[simp] theorem setCompleted_resp (s : State) : (setCompleted s).resp = s.resp := rfl
@[simp] theorem setCompleted_inputs (s : State) : (setCompleted s).inputs = s.inputs := rfl
@[simp] theorem setCompleted_hostLeft (s : State) : (setCompleted s).hostLeft = 0 := rfl
@[simp] theorem setCompleted_draws (s : State) : (setCompleted s).draws = s.draws := rfl

@[simp] theorem setOverrun_opa (s : State) : (setOverrun s).opa = s.opa := rfl
@[simp] theorem setOverrun_opd (s : State) : (setOverrun s).opd = s.opd := rfl
@[simp] theorem setOverrun_result (s : State) : (setOverrun s).result = s.result := rfl
@[simp] theorem setOverrun_desc (s : State) : (setOverrun s).desc = s.desc := rfl
@[simp] theorem setOverrun_busy (s : State) : (setOverrun s).busy = s.busy := rfl
@[simp] theorem setOverrun_done (s : State) : (setOverrun s).done = s.done := rfl
@[simp] theorem setOverrun_err (s : State) : (setOverrun s).err = s.err := rfl
@[simp] theorem setOverrun_errSticky (s : State) : (setOverrun s).errSticky = s.errSticky := rfl
@[simp] theorem setOverrun_overrun (s : State) : (setOverrun s).overrun = true := rfl
@[simp] theorem setOverrun_pendOp (s : State) : (setOverrun s).pendOp = s.pendOp := rfl
@[simp] theorem setOverrun_pendSlot (s : State) : (setOverrun s).pendSlot = s.pendSlot := rfl
@[simp] theorem setOverrun_resp (s : State) : (setOverrun s).resp = s.resp := rfl
@[simp] theorem setOverrun_inputs (s : State) : (setOverrun s).inputs = s.inputs := rfl
@[simp] theorem setOverrun_hostLeft (s : State) : (setOverrun s).hostLeft = s.hostLeft := rfl
@[simp] theorem setOverrun_draws (s : State) : (setOverrun s).draws = s.draws := rfl

@[simp] theorem reject_opa (e : CmdError) (s : State) : (reject e s).opa = s.opa := rfl
@[simp] theorem reject_opd (e : CmdError) (s : State) : (reject e s).opd = s.opd := rfl
@[simp] theorem reject_result (e : CmdError) (s : State) : (reject e s).result = s.result := rfl
@[simp] theorem reject_desc (e : CmdError) (s : State) : (reject e s).desc = s.desc := rfl
@[simp] theorem reject_busy (e : CmdError) (s : State) : (reject e s).busy = s.busy := rfl
@[simp] theorem reject_done (e : CmdError) (s : State) : (reject e s).done = true := rfl
@[simp] theorem reject_err (e : CmdError) (s : State) : (reject e s).err = e.code := rfl
@[simp] theorem reject_errSticky (e : CmdError) (s : State) : (reject e s).errSticky = true := rfl
@[simp] theorem reject_overrun (e : CmdError) (s : State) : (reject e s).overrun = s.overrun := rfl
@[simp] theorem reject_pendOp (e : CmdError) (s : State) : (reject e s).pendOp = s.pendOp := rfl
@[simp] theorem reject_pendSlot (e : CmdError) (s : State) : (reject e s).pendSlot = s.pendSlot := rfl
@[simp] theorem reject_resp (e : CmdError) (s : State) : (reject e s).resp = s.resp := rfl
@[simp] theorem reject_inputs (e : CmdError) (s : State) : (reject e s).inputs = s.inputs := rfl
@[simp] theorem reject_hostLeft (e : CmdError) (s : State) : (reject e s).hostLeft = s.hostLeft := rfl
@[simp] theorem reject_draws (e : CmdError) (s : State) : (reject e s).draws = s.draws := rfl

@[simp] theorem clearSticky_opa (w : Word) (s : State) : (clearSticky w s).opa = s.opa := rfl
@[simp] theorem clearSticky_opd (w : Word) (s : State) : (clearSticky w s).opd = s.opd := rfl
@[simp] theorem clearSticky_result (w : Word) (s : State) : (clearSticky w s).result = s.result := rfl
@[simp] theorem clearSticky_desc (w : Word) (s : State) : (clearSticky w s).desc = s.desc := rfl
@[simp] theorem clearSticky_busy (w : Word) (s : State) : (clearSticky w s).busy = s.busy := rfl
@[simp] theorem clearSticky_done (w : Word) (s : State) : (clearSticky w s).done = s.done := rfl
@[simp] theorem clearSticky_err (w : Word) (s : State) : (clearSticky w s).err = s.err := rfl
@[simp] theorem clearSticky_errSticky (w : Word) (s : State) :
    (clearSticky w s).errSticky = (s.errSticky && !w.getLsbD 8) := rfl
@[simp] theorem clearSticky_overrun (w : Word) (s : State) : (clearSticky w s).overrun = (s.overrun && !w.getLsbD 9) :=
  rfl
@[simp] theorem clearSticky_pendOp (w : Word) (s : State) : (clearSticky w s).pendOp = s.pendOp := rfl
@[simp] theorem clearSticky_pendSlot (w : Word) (s : State) : (clearSticky w s).pendSlot = s.pendSlot := rfl
@[simp] theorem clearSticky_resp (w : Word) (s : State) : (clearSticky w s).resp = s.resp := rfl
@[simp] theorem clearSticky_inputs (w : Word) (s : State) : (clearSticky w s).inputs = s.inputs := rfl
@[simp] theorem clearSticky_hostLeft (w : Word) (s : State) : (clearSticky w s).hostLeft = s.hostLeft := rfl
@[simp] theorem clearSticky_draws (w : Word) (s : State) : (clearSticky w s).draws = s.draws := rfl

@[simp] theorem accept_opa (op : CmdOp) (k : SlotIndex) (s : State) : (accept op k s).opa = s.opa := rfl
@[simp] theorem accept_opd (op : CmdOp) (k : SlotIndex) (s : State) : (accept op k s).opd = s.opd := rfl
@[simp] theorem accept_result (op : CmdOp) (k : SlotIndex) (s : State) : (accept op k s).result = s.result := rfl
@[simp] theorem accept_desc (op : CmdOp) (k : SlotIndex) (s : State) : (accept op k s).desc = s.desc := rfl
@[simp] theorem accept_busy (op : CmdOp) (k : SlotIndex) (s : State) : (accept op k s).busy = true := rfl
@[simp] theorem accept_done (op : CmdOp) (k : SlotIndex) (s : State) : (accept op k s).done = false := rfl
@[simp] theorem accept_err (op : CmdOp) (k : SlotIndex) (s : State) : (accept op k s).err = 0 := rfl
@[simp] theorem accept_errSticky (op : CmdOp) (k : SlotIndex) (s : State) : (accept op k s).errSticky = s.errSticky :=
  rfl
@[simp] theorem accept_overrun (op : CmdOp) (k : SlotIndex) (s : State) : (accept op k s).overrun = s.overrun := rfl
@[simp] theorem accept_pendOp (op : CmdOp) (k : SlotIndex) (s : State) : (accept op k s).pendOp = pendCode op := rfl
@[simp] theorem accept_pendSlot (op : CmdOp) (k : SlotIndex) (s : State) : (accept op k s).pendSlot = k := rfl
@[simp] theorem accept_resp (op : CmdOp) (k : SlotIndex) (s : State) : (accept op k s).resp = s.resp := rfl
@[simp] theorem accept_inputs (op : CmdOp) (k : SlotIndex) (s : State) : (accept op k s).inputs = s.inputs := rfl
@[simp] theorem accept_hostLeft (op : CmdOp) (k : SlotIndex) (s : State) :
    (accept op k s).hostLeft = Config.latency s.draws := rfl
@[simp] theorem accept_draws (op : CmdOp) (k : SlotIndex) (s : State) : (accept op k s).draws = s.draws + 1 := rfl

@[simp] theorem dropWrite_opa (s : State) : (dropWrite s).opa = s.opa := rfl
@[simp] theorem dropWrite_opd (s : State) : (dropWrite s).opd = s.opd := rfl
@[simp] theorem dropWrite_result (s : State) : (dropWrite s).result = s.result := rfl
@[simp] theorem dropWrite_desc (s : State) : (dropWrite s).desc = s.desc := rfl
@[simp] theorem dropWrite_busy (s : State) : (dropWrite s).busy = s.busy := rfl
@[simp] theorem dropWrite_done (s : State) : (dropWrite s).done = s.done := rfl
@[simp] theorem dropWrite_err (s : State) : (dropWrite s).err = s.err := rfl
@[simp] theorem dropWrite_errSticky (s : State) : (dropWrite s).errSticky = s.errSticky := rfl
@[simp] theorem dropWrite_overrun (s : State) : (dropWrite s).overrun = true := rfl
@[simp] theorem dropWrite_pendOp (s : State) : (dropWrite s).pendOp = s.pendOp := rfl
@[simp] theorem dropWrite_pendSlot (s : State) : (dropWrite s).pendSlot = s.pendSlot := rfl
@[simp] theorem dropWrite_resp (s : State) : (dropWrite s).resp = some ⟨0, false⟩ := rfl
@[simp] theorem dropWrite_inputs (s : State) : (dropWrite s).inputs = s.inputs := rfl
@[simp] theorem dropWrite_hostLeft (s : State) : (dropWrite s).hostLeft = s.hostLeft := rfl
@[simp] theorem dropWrite_draws (s : State) : (dropWrite s).draws = s.draws := rfl

@[simp] theorem writeOpa_opa (v : Word) (s : State) : (writeOpa v s).opa = v := rfl
@[simp] theorem writeOpa_opd (v : Word) (s : State) : (writeOpa v s).opd = s.opd := rfl
@[simp] theorem writeOpa_result (v : Word) (s : State) : (writeOpa v s).result = s.result := rfl
@[simp] theorem writeOpa_desc (v : Word) (s : State) : (writeOpa v s).desc = s.desc := rfl
@[simp] theorem writeOpa_busy (v : Word) (s : State) : (writeOpa v s).busy = s.busy := rfl
@[simp] theorem writeOpa_done (v : Word) (s : State) : (writeOpa v s).done = s.done := rfl
@[simp] theorem writeOpa_err (v : Word) (s : State) : (writeOpa v s).err = s.err := rfl
@[simp] theorem writeOpa_errSticky (v : Word) (s : State) : (writeOpa v s).errSticky = s.errSticky := rfl
@[simp] theorem writeOpa_overrun (v : Word) (s : State) : (writeOpa v s).overrun = s.overrun := rfl
@[simp] theorem writeOpa_pendOp (v : Word) (s : State) : (writeOpa v s).pendOp = s.pendOp := rfl
@[simp] theorem writeOpa_pendSlot (v : Word) (s : State) : (writeOpa v s).pendSlot = s.pendSlot := rfl
@[simp] theorem writeOpa_resp (v : Word) (s : State) : (writeOpa v s).resp = s.resp := rfl
@[simp] theorem writeOpa_inputs (v : Word) (s : State) : (writeOpa v s).inputs = s.inputs := rfl
@[simp] theorem writeOpa_hostLeft (v : Word) (s : State) : (writeOpa v s).hostLeft = s.hostLeft := rfl
@[simp] theorem writeOpa_draws (v : Word) (s : State) : (writeOpa v s).draws = s.draws := rfl

@[simp] theorem writeOpd_opa (v : Word) (s : State) : (writeOpd v s).opa = s.opa := rfl
@[simp] theorem writeOpd_opd (v : Word) (s : State) : (writeOpd v s).opd = v := rfl
@[simp] theorem writeOpd_result (v : Word) (s : State) : (writeOpd v s).result = s.result := rfl
@[simp] theorem writeOpd_desc (v : Word) (s : State) : (writeOpd v s).desc = s.desc := rfl
@[simp] theorem writeOpd_busy (v : Word) (s : State) : (writeOpd v s).busy = s.busy := rfl
@[simp] theorem writeOpd_done (v : Word) (s : State) : (writeOpd v s).done = s.done := rfl
@[simp] theorem writeOpd_err (v : Word) (s : State) : (writeOpd v s).err = s.err := rfl
@[simp] theorem writeOpd_errSticky (v : Word) (s : State) : (writeOpd v s).errSticky = s.errSticky := rfl
@[simp] theorem writeOpd_overrun (v : Word) (s : State) : (writeOpd v s).overrun = s.overrun := rfl
@[simp] theorem writeOpd_pendOp (v : Word) (s : State) : (writeOpd v s).pendOp = s.pendOp := rfl
@[simp] theorem writeOpd_pendSlot (v : Word) (s : State) : (writeOpd v s).pendSlot = s.pendSlot := rfl
@[simp] theorem writeOpd_resp (v : Word) (s : State) : (writeOpd v s).resp = s.resp := rfl
@[simp] theorem writeOpd_inputs (v : Word) (s : State) : (writeOpd v s).inputs = s.inputs := rfl
@[simp] theorem writeOpd_hostLeft (v : Word) (s : State) : (writeOpd v s).hostLeft = s.hostLeft := rfl
@[simp] theorem writeOpd_draws (v : Word) (s : State) : (writeOpd v s).draws = s.draws := rfl

@[simp] theorem writeDescM_opa (k : Nat) (v : Word) (s : State) : (writeDescM k v s).opa = s.opa := rfl
@[simp] theorem writeDescM_opd (k : Nat) (v : Word) (s : State) : (writeDescM k v s).opd = s.opd := rfl
@[simp] theorem writeDescM_result (k : Nat) (v : Word) (s : State) : (writeDescM k v s).result = s.result := rfl
@[simp] theorem writeDescM_desc (k : Nat) (v : Word) (s : State) :
    (writeDescM k v s).desc = s.desc.set k { s.slotAt k with m := v } := rfl
@[simp] theorem writeDescM_busy (k : Nat) (v : Word) (s : State) : (writeDescM k v s).busy = s.busy := rfl
@[simp] theorem writeDescM_done (k : Nat) (v : Word) (s : State) : (writeDescM k v s).done = s.done := rfl
@[simp] theorem writeDescM_err (k : Nat) (v : Word) (s : State) : (writeDescM k v s).err = s.err := rfl
@[simp] theorem writeDescM_errSticky (k : Nat) (v : Word) (s : State) : (writeDescM k v s).errSticky = s.errSticky :=
  rfl
@[simp] theorem writeDescM_overrun (k : Nat) (v : Word) (s : State) : (writeDescM k v s).overrun = s.overrun := rfl
@[simp] theorem writeDescM_pendOp (k : Nat) (v : Word) (s : State) : (writeDescM k v s).pendOp = s.pendOp := rfl
@[simp] theorem writeDescM_pendSlot (k : Nat) (v : Word) (s : State) : (writeDescM k v s).pendSlot = s.pendSlot := rfl
@[simp] theorem writeDescM_resp (k : Nat) (v : Word) (s : State) : (writeDescM k v s).resp = s.resp := rfl
@[simp] theorem writeDescM_inputs (k : Nat) (v : Word) (s : State) : (writeDescM k v s).inputs = s.inputs := rfl
@[simp] theorem writeDescM_hostLeft (k : Nat) (v : Word) (s : State) : (writeDescM k v s).hostLeft = s.hostLeft := rfl
@[simp] theorem writeDescM_draws (k : Nat) (v : Word) (s : State) : (writeDescM k v s).draws = s.draws := rfl

@[simp] theorem writeDescSh_opa (k : Nat) (v : Word) (s : State) : (writeDescSh k v s).opa = s.opa := rfl
@[simp] theorem writeDescSh_opd (k : Nat) (v : Word) (s : State) : (writeDescSh k v s).opd = s.opd := rfl
@[simp] theorem writeDescSh_result (k : Nat) (v : Word) (s : State) : (writeDescSh k v s).result = s.result := rfl
@[simp] theorem writeDescSh_desc (k : Nat) (v : Word) (s : State) :
    (writeDescSh k v s).desc = s.desc.set k { s.slotAt k with sh1 := v.extractLsb' 0 1, sh2 := v.extractLsb' 8 6, valid := v.getLsbD 16 } := rfl
@[simp] theorem writeDescSh_busy (k : Nat) (v : Word) (s : State) : (writeDescSh k v s).busy = s.busy := rfl
@[simp] theorem writeDescSh_done (k : Nat) (v : Word) (s : State) : (writeDescSh k v s).done = s.done := rfl
@[simp] theorem writeDescSh_err (k : Nat) (v : Word) (s : State) : (writeDescSh k v s).err = s.err := rfl
@[simp] theorem writeDescSh_errSticky (k : Nat) (v : Word) (s : State) : (writeDescSh k v s).errSticky = s.errSticky :=
  rfl
@[simp] theorem writeDescSh_overrun (k : Nat) (v : Word) (s : State) : (writeDescSh k v s).overrun = s.overrun := rfl
@[simp] theorem writeDescSh_pendOp (k : Nat) (v : Word) (s : State) : (writeDescSh k v s).pendOp = s.pendOp := rfl
@[simp] theorem writeDescSh_pendSlot (k : Nat) (v : Word) (s : State) : (writeDescSh k v s).pendSlot = s.pendSlot :=
  rfl
@[simp] theorem writeDescSh_resp (k : Nat) (v : Word) (s : State) : (writeDescSh k v s).resp = s.resp := rfl
@[simp] theorem writeDescSh_inputs (k : Nat) (v : Word) (s : State) : (writeDescSh k v s).inputs = s.inputs := rfl
@[simp] theorem writeDescSh_hostLeft (k : Nat) (v : Word) (s : State) : (writeDescSh k v s).hostLeft = s.hostLeft :=
  rfl
@[simp] theorem writeDescSh_draws (k : Nat) (v : Word) (s : State) : (writeDescSh k v s).draws = s.draws := rfl

@[simp] theorem takeInput_opa (x : Input) (rest : List Input) (s : State) : (takeInput x rest s).opa = s.opa := rfl
@[simp] theorem takeInput_opd (x : Input) (rest : List Input) (s : State) : (takeInput x rest s).opd = s.opd := rfl
@[simp] theorem takeInput_result (x : Input) (rest : List Input) (s : State) : (takeInput x rest s).result = s.result :=
  rfl
@[simp] theorem takeInput_desc (x : Input) (rest : List Input) (s : State) : (takeInput x rest s).desc = s.desc := rfl
@[simp] theorem takeInput_busy (x : Input) (rest : List Input) (s : State) : (takeInput x rest s).busy = s.busy := rfl
@[simp] theorem takeInput_done (x : Input) (rest : List Input) (s : State) : (takeInput x rest s).done = s.done := rfl
@[simp] theorem takeInput_err (x : Input) (rest : List Input) (s : State) : (takeInput x rest s).err = s.err := rfl
@[simp] theorem takeInput_errSticky (x : Input) (rest : List Input) (s : State) :
    (takeInput x rest s).errSticky = s.errSticky := rfl
@[simp] theorem takeInput_overrun (x : Input) (rest : List Input) (s : State) :
    (takeInput x rest s).overrun = s.overrun := rfl
@[simp] theorem takeInput_pendOp (x : Input) (rest : List Input) (s : State) : (takeInput x rest s).pendOp = s.pendOp :=
  rfl
@[simp] theorem takeInput_pendSlot (x : Input) (rest : List Input) (s : State) :
    (takeInput x rest s).pendSlot = s.pendSlot := rfl
@[simp] theorem takeInput_resp (x : Input) (rest : List Input) (s : State) : (takeInput x rest s).resp = s.resp := rfl
@[simp] theorem takeInput_inputs (x : Input) (rest : List Input) (s : State) :
    (takeInput x rest s).inputs = (if x = .wait ∧ s.busy = true then x :: rest else rest) := rfl
@[simp] theorem takeInput_hostLeft (x : Input) (rest : List Input) (s : State) :
    (takeInput x rest s).hostLeft = (if s.busy then s.hostLeft - 1 else s.hostLeft) := rfl
@[simp] theorem takeInput_draws (x : Input) (rest : List Input) (s : State) : (takeInput x rest s).draws = s.draws :=
  rfl

@[simp] theorem offerRecord_opa (r : Record) (s : State) : (offerRecord r s).opa = s.opa := rfl
@[simp] theorem offerRecord_opd (r : Record) (s : State) : (offerRecord r s).opd = s.opd := rfl
@[simp] theorem offerRecord_result (r : Record) (s : State) : (offerRecord r s).result = s.result := rfl
@[simp] theorem offerRecord_desc (r : Record) (s : State) : (offerRecord r s).desc = s.desc := rfl
@[simp] theorem offerRecord_busy (r : Record) (s : State) : (offerRecord r s).busy = s.busy := rfl
@[simp] theorem offerRecord_done (r : Record) (s : State) : (offerRecord r s).done = s.done := rfl
@[simp] theorem offerRecord_err (r : Record) (s : State) : (offerRecord r s).err = s.err := rfl
@[simp] theorem offerRecord_errSticky (r : Record) (s : State) : (offerRecord r s).errSticky = s.errSticky := rfl
@[simp] theorem offerRecord_overrun (r : Record) (s : State) : (offerRecord r s).overrun = s.overrun := rfl
@[simp] theorem offerRecord_pendOp (r : Record) (s : State) : (offerRecord r s).pendOp = s.pendOp := rfl
@[simp] theorem offerRecord_pendSlot (r : Record) (s : State) : (offerRecord r s).pendSlot = s.pendSlot := rfl
@[simp] theorem offerRecord_resp (r : Record) (s : State) : (offerRecord r s).resp = s.resp := rfl
@[simp] theorem offerRecord_inputs (r : Record) (s : State) : (offerRecord r s).inputs = .record r :: s.inputs := rfl
@[simp] theorem offerRecord_hostLeft (r : Record) (s : State) :
    (offerRecord r s).hostLeft = (if s.busy then s.hostLeft + 1 else s.hostLeft) := rfl
@[simp] theorem offerRecord_draws (r : Record) (s : State) : (offerRecord r s).draws = s.draws := rfl

@[simp] theorem resetUnit_opa (s : State) : (resetUnit s).opa = 0 := rfl
@[simp] theorem resetUnit_opd (s : State) : (resetUnit s).opd = 0 := rfl
@[simp] theorem resetUnit_result (s : State) : (resetUnit s).result = 0 := rfl
@[simp] theorem resetUnit_desc (s : State) : (resetUnit s).desc = List.replicate s.ndesc Slot.reset := rfl
@[simp] theorem resetUnit_busy (s : State) : (resetUnit s).busy = false := rfl
@[simp] theorem resetUnit_done (s : State) : (resetUnit s).done = false := rfl
@[simp] theorem resetUnit_err (s : State) : (resetUnit s).err = 0 := rfl
@[simp] theorem resetUnit_errSticky (s : State) : (resetUnit s).errSticky = false := rfl
@[simp] theorem resetUnit_overrun (s : State) : (resetUnit s).overrun = false := rfl
@[simp] theorem resetUnit_pendOp (s : State) : (resetUnit s).pendOp = 0 := rfl
@[simp] theorem resetUnit_pendSlot (s : State) : (resetUnit s).pendSlot = 0 := rfl
@[simp] theorem resetUnit_resp (s : State) : (resetUnit s).resp = none := rfl
@[simp] theorem resetUnit_inputs (s : State) : (resetUnit s).inputs = s.inputs := rfl
@[simp] theorem resetUnit_hostLeft (s : State) : (resetUnit s).hostLeft = 0 := rfl
@[simp] theorem resetUnit_draws (s : State) : (resetUnit s).draws = s.draws := rfl

end Sys2Proof.Machine
end

