-- ==== Sys2Proof/Laws/Ops.lean ====
section
/-! SUPPORT. What each primitive and shared operation can do, said once. -/

namespace Sys2Proof.Machine

/-! ### Primitives -/

theorem mulhi64_toNat (a m : Word) : (mulhi64 a m).toNat = a.toNat * m.toNat / 2 ^ 64 := by
  have h : a.toNat * m.toNat / 2 ^ 64 < 2 ^ 64 :=
    Nat.div_lt_of_lt_mul (Nat.mul_lt_mul'' a.isLt m.isLt)
  rw [mulhi64, BitVec.toNat_ofNat, Nat.mod_eq_of_lt h]

theorem mulhi64_le (a m : Word) : (mulhi64 a m).toNat ≤ a.toNat := by
  rw [mulhi64_toNat]
  exact Nat.div_le_of_le_mul (by rw [Nat.mul_comm]; exact Nat.mul_le_mul_right _ m.isLt.le)

theorem fls64_of_ne_zero {x : Word} (h : x ≠ 0) : fls64 x = Nat.log2 x.toNat + 1 := if_neg h

@[simp] theorem fls64_zero : fls64 0#64 = 0 := rfl

@[simp] theorem opOfPend_pendCode (op : CmdOp) : opOfPend (pendCode op) = some op := by cases op <;> rfl

theorem opOfPend_eq_some {c : BitVec 2} {op : CmdOp} : opOfPend c = some op ↔ c = pendCode op := by
  revert c; cases op <;> decide

/-! ### The bank -/

theorem slotAt_of_getElem? {s : State} {k : Nat} {q : Slot} (h : s.desc[k]? = some q) : s.slotAt k = q := by
  simp [State.slotAt, List.getD, h]

theorem getElem?_of_lt_ndesc {s : State} {k : Nat} (h : k < s.ndesc) : s.desc[k]? = some (s.slotAt k) := by
  have h' : k < s.desc.length := h
  simp [State.slotAt, List.getD, List.getElem?_eq_getElem h']

theorem lt_ndesc_of_getElem? {s : State} {k : Nat} {q : Slot} (h : s.desc[k]? = some q) : k < s.ndesc :=
  (List.getElem?_eq_some_iff.mp h).1

/-- An update that keeps the bank keeps NDESC. -/
theorem ndesc_congr {s t : State} (h : t.desc = s.desc) : t.ndesc = s.ndesc := by rw [State.ndesc, h, State.ndesc]

/-- An update that keeps the bank keeps every slot. -/
theorem slotAt_congr {s t : State} (h : t.desc = s.desc) (k : Nat) : t.slotAt k = s.slotAt k := by
  rw [State.slotAt, h, State.slotAt]

@[simp] theorem setSlot_ndesc (k : Nat) (d : Slot) (s : State) : (setSlot k d s).ndesc = s.ndesc :=
  List.length_set

theorem setSlot_slotAt_self {k : Nat} {s : State} (d : Slot) (h : k < s.ndesc) : (setSlot k d s).slotAt k = d :=
  slotAt_of_getElem? (List.getElem?_set_self h)

theorem setSlot_slotAt_ne {j k : Nat} (s : State) (d : Slot) (h : j ≠ k) :
    (setSlot k d s).slotAt j = s.slotAt j := by
  simp [State.slotAt, setSlot, List.getD, List.getElem?_set_ne h.symm]

/-! ### A command's CMD write -/

/-- What `issue` can do. -/
theorem issue_cases (op : CmdOp) (k : SlotIndex) (c : Option CmdError) (s : State) :
    (s.busy = true ∧ issue op k c s = dropWrite s) ∨
    (s.busy = false ∧ ∃ e, c = some e ∧ issue op k c s = respondOk (reject e s)) ∨
    (s.busy = false ∧ c = none ∧ issue op k c s = respondOk (accept op k s)) := by
  unfold issue
  cases hb : s.busy <;> cases c <;> simp

theorem issue_of_busy {s : State} (hb : s.busy = true) (op : CmdOp) (k : SlotIndex) (c : Option CmdError) :
    issue op k c s = dropWrite s := if_pos hb

theorem issue_of_error {s : State} (hb : s.busy = false) (op : CmdOp) (k : SlotIndex) (e : CmdError) :
    issue op k (some e) s = respondOk (reject e s) := if_neg (by simp [hb])

theorem issue_of_ok {s : State} (hb : s.busy = false) (op : CmdOp) (k : SlotIndex) :
    issue op k none s = respondOk (accept op k s) := if_neg (by simp [hb])

/-- A command's CMD write always gets the OK response (60_exceptions R117). -/
theorem issue_resp (op : CmdOp) (k : SlotIndex) (c : Option CmdError) (s : State) :
    (issue op k c s).resp = some ⟨0, false⟩ := by
  rcases issue_cases op k c s with ⟨-, h⟩ | ⟨-, e, -, h⟩ | ⟨-, -, h⟩ <;> rw [h] <;> rfl

theorem rcpCheck_badSlot {k : SlotIndex} {s : State} (h : s.ndesc ≤ k.toNat) : rcpCheck k s = some .badSlot :=
  if_pos h

theorem rcpCheck_divisorZero {k : SlotIndex} {s : State} (h : k.toNat < s.ndesc) (hd : s.opd = 0) :
    rcpCheck k s = some .divisorZero := by
  rw [rcpCheck, if_neg (Nat.not_le.mpr h), if_pos hd]

theorem useCheck_badSlot {k : SlotIndex} {s : State} (h : s.ndesc ≤ k.toNat) : useCheck k s = some .badSlot :=
  if_pos h

theorem useCheck_descInvalid {k : SlotIndex} {s : State} (h : k.toNat < s.ndesc)
    (hv : (s.slotAt k.toNat).valid = false) : useCheck k s = some .descInvalid := by
  rw [useCheck, if_neg (Nat.not_le.mpr h), if_pos hv]

theorem rcpCheck_eq_none {k : SlotIndex} {s : State} :
    rcpCheck k s = none ↔ k.toNat < s.ndesc ∧ s.opd ≠ 0 := by
  unfold rcpCheck; split <;> [skip; split] <;> simp <;> grind

theorem useCheck_eq_none {k : SlotIndex} {s : State} :
    useCheck k s = none ↔ k.toNat < s.ndesc ∧ (s.slotAt k.toNat).valid = true := by
  unfold useCheck; split <;> [skip; split] <;> simp <;> grind

/-! ### The engine -/

theorem engineTurn_of_idle {s : State} (h : s.busy = false) : engineTurn s = false := by simp [engineTurn, h]

theorem engineTurn_eq_true {s : State} :
    engineTurn s = true ↔ s.busy = true ∧ (s.hostLeft = 0 ∨ s.inputs = []) := by
  unfold engineTurn
  cases s.busy <;> cases s.hostLeft <;> simp

/-- What a completion can write, and in which states. -/
theorem complete_cases {s t : State} (h : complete s = .next t) :
    s.pendSlot.toNat < s.ndesc ∧
    ((s.pendOp = 1 ∧ ∃ r, computeReciprocal s.opd = some r ∧
        t = setCompleted (setSlot s.pendSlot.toNat ⟨r, true⟩ s)) ∨
      (s.pendOp = 2 ∧ t = setCompleted
        { s with result := reciprocalDivide s.opa (s.slotAt s.pendSlot.toNat).toDescriptor }) ∨
      (s.pendOp = 3 ∧ t = setCompleted
        { s with result := reciprocalRemainder s.opa s.opd (s.slotAt s.pendSlot.toNat).toDescriptor })) := by
  unfold complete at h
  split at h
  · simp at h
  · rename_i op hop
    have hp := opOfPend_eq_some.mp hop
    split at h
    · simp at h
    · rename_i hk
      refine ⟨by omega, ?_⟩
      cases op
      · left
        simp only [completeRcp] at h
        split at h
        · rename_i r hr
          exact ⟨hp, r, hr, (Host.Outcome.next.inj h).symm⟩
        · simp at h
      · right; left; exact ⟨hp, (Host.Outcome.next.inj h).symm⟩
      · right; right; exact ⟨hp, (Host.Outcome.next.inj h).symm⟩

theorem computeReciprocal_ne_zero {d : Word} (h : d ≠ 0) : ∃ r, computeReciprocal d = some r := by
  exact ⟨_, if_neg h⟩

theorem completeRcp_eq {s : State} {r : Descriptor} (h : computeReciprocal s.opd = some r) :
    completeRcp s = .next (setCompleted (setSlot s.pendSlot.toNat ⟨r, true⟩ s)) := by
  simp [completeRcp, h]

/-- The completion of each operation, where the pending slot exists. -/
theorem complete_eq {s : State} {op : CmdOp} (hp : s.pendOp = pendCode op) (hk : s.pendSlot.toNat < s.ndesc) :
    complete s = match op with
      | .rcp => completeRcp s
      | .divr => completeDivr s
      | .modr => completeModr s := by
  cases op <;> simp [complete, hp, Nat.not_le.mpr hk]

end Sys2Proof.Machine
end

