-- ==== Sys2Proof/WellFormed.lean ====
section
/-! DEFINITION. What a host that follows spec/30_encoding.md R72 writes. The fields' types already bound every operand;
the one convention left is that a read's DATA is written as 0. The unit itself ignores that field, so decoding and
`exec` do not ask for it. -/

namespace Sys2Proof

/-- "DATA … is ignored for a read and written as 0" (30_encoding R72; log entry 11). -/
def Instr.wellFormed : Instr → Bool
  | .rcp _ => true
  | .divr _ => true
  | .modr _ => true
  | .hrd _ data => data == 0
  | .hwr _ _ => true

end Sys2Proof
end

