-- ==== Sys2Proof/Laws/PerInstr.lean ====
section
/-! SUPPORT. A family of lemmas, one per constructor of Instr: every instruction's encoding has the form of its row of
spec/opcode_table.json and matches the row's match under its mask (spec/30_encoding.md R65, R67, R72). -/

namespace Sys2Proof.Laws.RowMatch

/-- The instruction's encoding is in its row's form and carries the row's fixed bits. -/
def Statement : Instr → Prop
  | .rcp k => ∃ w, encode (.rcp k) = .command w ∧ w &&& 0xFFFFFFFFFFFFF0FF = 0x0000000000000001
  | .divr k => ∃ w, encode (.divr k) = .command w ∧ w &&& 0xFFFFFFFFFFFFF0FF = 0x0000000000000002
  | .modr k => ∃ w, encode (.modr k) = .command w ∧ w &&& 0xFFFFFFFFFFFFF0FF = 0x0000000000000003
  | .hrd off d => ∃ r, encode (.hrd off d) = .record r ∧ r.getLsbD 72 = false
  | .hwr off d => ∃ r, encode (.hwr off d) = .record r ∧ r.getLsbD 72 = true

theorem rcp (k : SlotIndex) : Statement (.rcp k) := ⟨_, rfl, by revert k; decide⟩

theorem divr (k : SlotIndex) : Statement (.divr k) := ⟨_, rfl, by revert k; decide⟩

theorem modr (k : SlotIndex) : Statement (.modr k) := ⟨_, rfl, by revert k; decide⟩

theorem hrd (off : Offset) (d : Word) : Statement (.hrd off d) := ⟨_, rfl, encodeRecord_write false off d⟩

theorem hwr (off : Offset) (d : Word) : Statement (.hwr off d) := ⟨_, rfl, encodeRecord_write true off d⟩

end Sys2Proof.Laws.RowMatch
end

