-- ==== Sys2Proof/Laws/Reciprocal.lean ====
section
/-! SUPPORT. The one fact about naturals behind reciprocal division: the reciprocal rounded up to 64 bits past its
leading one divides every 64-bit dividend exactly. -/

namespace Sys2Proof.Machine

/-- If `m + 2^64` is `2^(64+l) / d` rounded up and `d ≤ 2^l`, then multiplying by it and dropping `64 + l` bits divides
`a < 2^64` by `d`. -/
theorem roundedReciprocal_div {a d l m : Nat} (ha : a < 2 ^ 64) (hd : 0 < d) (hl : d ≤ 2 ^ l)
    (hm : m + 2 ^ 64 = 2 ^ (64 + l) / d + 1) : (m * a + 2 ^ 64 * a) / 2 ^ (64 + l) = a / d := by
  have above : 2 ^ (64 + l) < (m + 2 ^ 64) * d := by
    have hdm := Nat.div_add_mod (2 ^ (64 + l)) d
    have hmod := Nat.mod_lt (2 ^ (64 + l)) hd
    rw [Nat.mul_comm] at hdm
    rw [hm, Nat.add_mul]
    omega
  have close : (m + 2 ^ 64) * d ≤ 2 ^ (64 + l) + d := by
    have := Nat.div_mul_le_self (2 ^ (64 + l)) d
    rw [hm, Nat.add_mul]
    omega
  have quot : a + 1 ≤ (a / d + 1) * d := by
    have hdm := Nat.div_add_mod a d
    have hmod := Nat.mod_lt a hd
    rw [Nat.mul_comm] at hdm
    rw [Nat.add_mul]
    omega
  have small : d * a < 2 ^ (64 + l) := by
    rw [pow_add, Nat.mul_comm d]
    exact lt_of_le_of_lt (Nat.mul_le_mul_left a hl) (Nat.mul_lt_mul_of_pos_right ha (by positivity))
  rw [← Nat.add_mul]
  apply Nat.div_eq_of_lt_le
  · calc a / d * 2 ^ (64 + l) ≤ a / d * ((m + 2 ^ 64) * d) := Nat.mul_le_mul_left _ above.le
      _ = (m + 2 ^ 64) * (a / d * d) := by ring
      _ ≤ (m + 2 ^ 64) * a := Nat.mul_le_mul_left _ (Nat.div_mul_le_self a d)
  · refine Nat.lt_of_mul_lt_mul_right (a := d) ?_
    calc (m + 2 ^ 64) * a * d = ((m + 2 ^ 64) * d) * a := by ring
      _ ≤ (2 ^ (64 + l) + d) * a := Nat.mul_le_mul_right _ close
      _ = 2 ^ (64 + l) * a + d * a := by ring
      _ < 2 ^ (64 + l) * a + 2 ^ (64 + l) := by omega
      _ = 2 ^ (64 + l) * (a + 1) := by ring
      _ ≤ 2 ^ (64 + l) * ((a / d + 1) * d) := Nat.mul_le_mul_left _ quot
      _ = (a / d + 1) * 2 ^ (64 + l) * d := by ring

end Sys2Proof.Machine
end

