-- ==== Sys2Proof/Laws/Step.lean ====
section
/-! SUPPORT. The register map, and everything a host transaction and a step can do, said once. -/

namespace Sys2Proof.Machine

/-! ### The register map -/

theorem regAt_offset (r : Reg) : regAt r.offset = some r := by
  cases r with
  | descM k => revert k; decide
  | descSh k => revert k; decide
  | cmd => rfl
  | status => rfl
  | opa => rfl
  | opd => rfl
  | result => rfl
  | info => rfl

theorem regAt_eq_some {off : Offset} {r : Reg} : regAt off = some r ↔ off = r.offset := by
  constructor
  · have h : ∀ off : Offset, (regAt off).all (fun r => decide (off = r.offset)) = true := by decide
    intro hr
    have := h off
    rw [hr] at this
    simpa using this
  · rintro rfl; exact regAt_offset r

theorem mapped_eq_some {s : State} {off : Offset} {r : Reg} :
    s.mapped off = some r ↔ off = r.offset ∧ regPresent s.ndesc r = true := by
  simp only [State.mapped, Option.filter_eq_some_iff, regAt_eq_some]

/-- The offsets 20_memory R48 does not map, and the misaligned ones. -/
theorem mapped_eq_none {s : State} {off : Offset} :
    s.mapped off = none ↔
      off.toNat % 8 ≠ 0 ∨ off = 0x30 ∨ off = 0x38 ∨ 0x40 + 16 * s.ndesc ≤ off.toNat := by
  have hnone : ∀ off : Offset, regAt off = none ↔ off.toNat % 8 ≠ 0 ∨ off = 0x30 ∨ off = 0x38 := by decide
  have hval : ∀ off : Offset, (regAt off).all (fun r => match r with
      | .descM k => decide (off.toNat = 0x40 + 16 * k.val)
      | .descSh k => decide (off.toNat = 0x48 + 16 * k.val)
      | _ => decide (off.toNat < 0x40)) = true := by decide
  have h1 := hnone off
  have h2 := hval off
  rw [← or_assoc, ← or_assoc, or_assoc (a := off.toNat % 8 ≠ 0), ← h1, State.mapped]
  cases hr : regAt off with
  | none => simp
  | some r =>
    rw [hr] at h2
    have h3 := (not_congr h1).mp (by simp [hr])
    cases r <;> simp [regPresent, Option.filter] at h2 ⊢ <;> omega

/-! ### Host transactions -/

/-- What a host transaction can leave, with the transactions and states that lead to each. -/
inductive HostEffect (i : Instr) (s : State) : State → Prop where
  | answered (v : Word) (e : Bool) : HostEffect i s (respond v e s)
  | dropped (hb : s.busy = true) : HostEffect i s (dropWrite s)
  | cleared (w : Word) (hi : i = .hwr 0x08 w) : HostEffect i s (respondOk (clearSticky w s))
  | opaWritten (v : Word) (hb : s.busy = false) (hi : i = .hwr 0x10 v) : HostEffect i s (respondOk (writeOpa v s))
  | opdWritten (v : Word) (hb : s.busy = false) (hi : i = .hwr 0x18 v) : HostEffect i s (respondOk (writeOpd v s))
  | descMWritten (k : Fin 12) (v : Word) (hb : s.busy = false) (hk : k.val < s.ndesc)
      (hi : i = .hwr (Reg.offset (.descM k)) v) : HostEffect i s (respondOk (writeDescM k.val v s))
  | descShWritten (k : Fin 12) (v : Word) (hb : s.busy = false) (hk : k.val < s.ndesc)
      (hi : i = .hwr (Reg.offset (.descSh k)) v) : HostEffect i s (respondOk (writeDescSh k.val v s))
  | rejected (e : CmdError) (hb : s.busy = false) : HostEffect i s (respondOk (reject e s))
  | accepted (c : Command) (hb : s.busy = false) (hk : c.slot.toNat < s.ndesc)
      (hd : c.op = .rcp → s.opd ≠ 0) (hv : c.op ≠ .rcp → (s.slotAt c.slot.toNat).valid = true)
      (hi : i = c.instr ∨ ∃ w, i = .hwr 0x00 w ∧ decodeCommand w = .ok c) :
      HostEffect i s (respondOk (accept c.op c.slot s))

theorem issue_effect {i : Instr} {s : State} {chk : Option CmdError} (c : Command)
    (hc : chk = none → c.slot.toNat < s.ndesc ∧ (c.op = .rcp → s.opd ≠ 0) ∧
      (c.op ≠ .rcp → (s.slotAt c.slot.toNat).valid = true))
    (hi : i = c.instr ∨ ∃ w, i = .hwr 0x00 w ∧ decodeCommand w = .ok c) :
    HostEffect i s (issue c.op c.slot chk s) := by
  rcases issue_cases c.op c.slot chk s with ⟨hb, h⟩ | ⟨hb, e, -, h⟩ | ⟨hb, hn, h⟩ <;> rw [h]
  · exact .dropped hb
  · exact .rejected e hb
  · exact .accepted c hb (hc hn).1 (hc hn).2.1 (hc hn).2.2 hi

/-- Each command, whether written by name or by its word, has one of these effects. -/
theorem command_effect {i : Instr} {s : State} (c : Command)
    (hi : i = c.instr ∨ ∃ w, i = .hwr 0x00 w ∧ decodeCommand w = .ok c) :
    ∃ t, exec c.instr s = .next t ∧ HostEffect i s t := by
  obtain ⟨op, k⟩ := c
  cases op
  · exact ⟨_, rfl, issue_effect ⟨.rcp, k⟩ (fun h => by have := rcpCheck_eq_none.mp h; exact ⟨this.1, fun _ => this.2, by simp⟩) hi⟩
  · exact ⟨_, rfl, issue_effect ⟨.divr, k⟩ (fun h => by have := useCheck_eq_none.mp h; exact ⟨this.1, by simp, fun _ => this.2⟩) hi⟩
  · exact ⟨_, rfl, issue_effect ⟨.modr, k⟩ (fun h => by have := useCheck_eq_none.mp h; exact ⟨this.1, by simp, fun _ => this.2⟩) hi⟩

/-- A legal word written to CMD is its command. -/
theorem writeCmd_of_decode {w : Word} {c : Command} (h : decodeCommand w = .ok c) (s : State) :
    writeCmd w s = exec c.instr s := by
  obtain ⟨op, k⟩ := c
  cases op <;> simp [writeCmd, h, Command.instr, exec]

/-- Every instruction completes with one of the effects: no transaction faults or is refused (60_exceptions R117). -/
theorem exec_effect (i : Instr) (s : State) : ∃ t, exec i s = .next t ∧ HostEffect i s t := by
  cases i with
  | rcp k => exact command_effect ⟨.rcp, k⟩ (.inl rfl)
  | divr k => exact command_effect ⟨.divr, k⟩ (.inl rfl)
  | modr k => exact command_effect ⟨.modr, k⟩ (.inl rfl)
  | hrd off d =>
    simp only [exec, execHrd]
    split
    · exact ⟨_, rfl, .answered _ _⟩
    · exact ⟨_, rfl, .answered _ _⟩
  | hwr off w =>
    simp only [exec, execHwr]
    split
    · exact ⟨_, rfl, .answered _ _⟩
    · rename_i r hr
      obtain ⟨rfl, hp⟩ := mapped_eq_some.mp hr
      split
      · rename_i hb
        exact ⟨_, rfl, .dropped (by simp at hb; exact hb.1)⟩
      · rename_i hb
        have hb' : r ≠ .status → s.busy = false := fun h => by simpa [h] using hb
        cases r with
        | cmd =>
          simp only [writeReg]
          cases hd : decodeCommand w with
          | error e => simp only [writeCmd, hd]; exact ⟨_, rfl, .rejected _ (hb' (by simp))⟩
          | ok c => rw [writeCmd_of_decode hd]; exact command_effect c (.inr ⟨w, rfl, hd⟩)
        | status => exact ⟨_, rfl, .cleared w rfl⟩
        | opa => exact ⟨_, rfl, .opaWritten w (hb' (by simp)) rfl⟩
        | opd => exact ⟨_, rfl, .opdWritten w (hb' (by simp)) rfl⟩
        | result => exact ⟨_, rfl, .answered 0 false⟩
        | info => exact ⟨_, rfl, .answered 0 false⟩
        | descM k => exact ⟨_, rfl, .descMWritten k w (hb' (by simp)) (by simpa [regPresent] using hp) rfl⟩
        | descSh k => exact ⟨_, rfl, .descShWritten k w (hb' (by simp)) (by simpa [regPresent] using hp) rfl⟩

/-! ### Steps -/

/-- What a step that answers a next state did. -/
theorem step_cases {s t : State} (h : step s = .next t) :
    (engineTurn s = true ∧ complete s = .next t) ∨
    (engineTurn s = false ∧ s.inputs = [] ∧ t = s) ∨
    (engineTurn s = false ∧ ∃ x rest, s.inputs = x :: rest ∧
      ((∃ i, eventOf x = .instr i ∧ HostEffect i (takeInput x rest s) t) ∨
        (x = .reset ∧ t = resetUnit (takeInput x rest s)))) := by
  unfold step at h
  split at h
  · exact .inl ⟨‹_›, h⟩
  · rename_i he
    have he : engineTurn s = false := by simpa using he
    right
    cases hin : s.inputs with
    | nil => rw [hin] at h; exact .inl ⟨he, rfl, (Host.Outcome.next.inj h).symm⟩
    | cons x rest =>
      right
      simp only [hin] at h
      refine ⟨he, x, rest, rfl, ?_⟩
      cases hx : eventOf x with
      | instr i =>
        simp only [hx] at h
        obtain ⟨u, hu, heff⟩ := exec_effect i (takeInput x rest s)
        have : u = t := Host.Outcome.next.inj (hu.symm.trans h)
        exact .inl ⟨i, rfl, this ▸ heff⟩
      | reset =>
        simp only [hx] at h
        refine .inr ⟨?_, (Host.Outcome.next.inj h).symm⟩
        cases x <;> simp [eventOf, busEvent] at hx ⊢ <;> split_ifs at hx
      | refuse q => simp [hx] at h

/-- A step that runs the transaction an input stands for. -/
theorem step_of_instr {s : State} {x : Input} {rest : List Input} {i : Instr} (he : engineTurn s = false)
    (hin : s.inputs = x :: rest) (hx : eventOf x = .instr i) : step s = exec i (takeInput x rest s) := by
  simp [step, he, hin, hx]

/-- A step that is the engine's. -/
theorem step_of_engineTurn {s : State} (he : engineTurn s = true) : step s = complete s := by simp [step, he]

@[simp] theorem steps_zero (s : State) : steps 0 s = .next s := rfl

theorem steps_succ {s t : State} (h : step s = .next t) (n : Nat) : steps (n + 1) s = steps n t := by
  simp [steps, h]

/-- Runs compose. -/
theorem steps_add {s t : State} {m : Nat} (h : steps m s = .next t) (n : Nat) : steps (m + n) s = steps n t := by
  induction m generalizing s with
  | zero => simp only [steps_zero, Host.Outcome.next.injEq] at h; simp [h]
  | succ m ih =>
    rw [Nat.succ_add]
    cases hs : step s with
    | next u => rw [steps_succ hs] at h ⊢; exact ih h
    | fault f => simp [steps, hs] at h
    | refused q => simp [steps, hs] at h

end Sys2Proof.Machine
end

