-- ==== Sys2Proof/Tests/Slice0.lean ====
section
/-! SUPPORT. The model's own tests: words written out from spec/30_encoding.md, one-step vectors of
spec/95_test_vectors.md, and for every statement of Certificates/Slice0/Obligations.lean that has hypotheses a concrete
state and operands that meet them (`witness_<statement>`). -/

namespace Sys2Proof.Tests

open Sys2Proof Sys2Proof.Machine

/-! ### Helpers -/

/-- The next state of an outcome, if it is one. -/
def nextOf (o : Host.Outcome State Fault Refusal) : Option State :=
  match o with
  | .next t => some t
  | .fault _ => none
  | .refused _ => none

/-- The next state of a host write on `s`. -/
def afterWr (off : Offset) (v : Word) (s : State) : Option State := nextOf (exec (.hwr off v) s)

/-- The response to a host read on `s`. -/
def answer (off : Offset) (s : State) : Option Response := (nextOf (exec (.hrd off 0) s)).bind State.resp

/-- The slot RCP builds from 10 (V-RCP). -/
def slotTen : Slot := { m := 0x999999999999999A, sh1 := 1, sh2 := 3, valid := true }

/-- A host-written slot, valid (V-DIVR). -/
def slotOf (m : Word) (sh1 : BitVec 1) (sh2 : BitVec 6) : Slot := { m := m, sh1 := sh1, sh2 := sh2, valid := true }

/-- Reset, then OPA, OPD and slot 0 as given; slot 3 holds the slot of 10. -/
def loaded (opa opd : Word) (q : Slot) : State :=
  { State.reset with opa := opa, opd := opd, desc := [q, Slot.reset, Slot.reset, slotTen], done := true }

/-- The same with operation `op` pending on slot 0, its completion being next. -/
def pending (op : BitVec 2) (opa opd : Word) (q : Slot) : State :=
  { loaded opa opd q with busy := true, done := false, pendOp := op, pendSlot := 0 }

/-- The same with one host event, `x`, before the completion. -/
def pendingThen (op : BitVec 2) (x : Input) : State :=
  { pending op 107 10 slotTen with inputs := [x], hostLeft := 1 }

/-- Idle, slot 0 and slot 3 built from 10, the host's next event being `x`. -/
def idleThen (x : Input) : State := { loaded 107 10 slotTen with inputs := [x] }

/-- The largest legal unit, every slot the one of 10. -/
def twelve : State := { State.reset with desc := List.replicate 12 slotTen }

/-! ### WellFormed -/

theorem test_wf_read_data_refused : (Instr.hrd 0x20 1).wellFormed = false := by decide
theorem test_wf_accepted : ((Instr.hrd 0xFF 0).wellFormed && (Instr.hwr 0x14 (BitVec.allOnes 64)).wellFormed
    && (Instr.rcp 15).wellFormed && (Instr.divr 0).wellFormed && (Instr.modr 4).wellFormed) = true := by decide

/-! ### Decoding: words from R66, R67, R73 and the listings of P1 to P4 -/

theorem test_decode_rcp : decode (.command 0b0000000100000001#64) = .ok (.rcp 1) := by decide
theorem test_decode_divr : decode (.command 0b0000001000000010#64) = .ok (.divr 2) := by decide
theorem test_decode_modr : decode (.command 0b0000111100000011#64) = .ok (.modr 15) := by decide
theorem test_decode_hrd : decode (.record 0x0680000000000000000#73) = .ok (.hrd 0x68 0) := by decide
theorem test_decode_hwr : decode (.record 0x1180000000000000007#73) = .ok (.hwr 0x18 7) := by decide
/-- A reserved bit is reported whatever OP holds (R69); OP 0, 4 to 15 are illegal (R67). -/
theorem test_decode_illegal : decode (.command 0x1001) = .error .reservedBits ∧
    decode (.command 0x0F11) = .error .reservedBits ∧ decode (.command 0x0F00) = .error .illegalOp ∧
    decode (.command 0x000F) = .error .illegalOp := by decide
theorem test_encode_words : encode (.rcp 3) = .command 0x301 ∧ encode (.modr 3) = .command 0x303 ∧
    encode (.hwr 0x10 0x6B) = .record 0x110000000000000006B := by decide
/-- The listings of P1 and P2: a pseudo-instruction's records (R74, R78, R79). -/
theorem test_expand : expand (.setd 10 0) = [.record 0x118000000000000000A, .record 0x1000000000000000001, .wait] ∧
    expand (.rd (.name (.descSh 2))) = [.record 0x0680000000000000000] ∧
    expand (.div 107 1) = [.record 0x110000000000000006B, .record 0x1000000000000000102, .wait,
      .record 0x0200000000000000000] := by decide

/-! ### The opcode table's words as the first step after reset -/

theorem test_first_rcp : decodeTableWord 64 1 = some (.rcp 0) ∧
    (nextOf (step (State.reset.withFetchWord 64 1))).map statusWord = some 0x132 := by decide
theorem test_first_divr : decodeTableWord 64 2 = some (.divr 0) ∧
    (nextOf (step (State.reset.withFetchWord 64 2))).map statusWord = some 0x142 := by decide
theorem test_first_modr : decodeTableWord 64 0x303 = some (.modr 3) ∧
    (nextOf (step (State.reset.withFetchWord 64 0x303))).map statusWord = some 0x142 := by decide
theorem test_first_hrd : decodeTableWord 80 0x0280000000000000000 = some (.hrd 0x28 0) ∧
    (nextOf (step (State.reset.withFetchWord 80 0x0280000000000000000))).map State.resp =
      some (some ⟨0x104, false⟩) := by decide
theorem test_first_hwr : decodeTableWord 80 0x110000000000000006B = some (.hwr 0x10 107) ∧
    (nextOf (step (State.reset.withFetchWord 80 0x110000000000000006B))).map State.opa = some 107 := by decide

/-! ### The arithmetic (V-RCP, V-DIVR, V-MODR) -/

theorem test_recip_one_and_two : computeReciprocal 1 = some ⟨1, 0, 0⟩ ∧ computeReciprocal 2 = some ⟨1, 1, 0⟩ := by decide
theorem test_recip_extremes : computeReciprocal 0x8000000000000001 = some ⟨0xFFFFFFFFFFFFFFFD, 1, 63⟩ ∧
    computeReciprocal 0x7FFFFFFFFFFFFFFF = some ⟨3, 1, 62⟩ ∧
    computeReciprocal 0xFFFFFFFFFFFFFFFF = some ⟨2, 1, 63⟩ := by decide
theorem test_divide_largest_m : reciprocalDivide 0xFFFFFFFFFFFFFFFF ⟨0xFFFFFFFFFFFFFFFD, 1, 63⟩ = 1 ∧
    reciprocalDivide 0x8000000000000000 ⟨0xFFFFFFFFFFFFFFFD, 1, 63⟩ = 0 := by decide
theorem test_remainder_wraps : reciprocalRemainder 0xFFFFFFFFFFFFFFFF 3 ⟨1, 1, 0⟩ = 0x7FFFFFFFFFFFFFFF := by decide

/-! ### Commands: completion (V-RCP, V-DIVR, V-MODR) and rejection (V-ERR) -/

/-- RCP overwrites a valid slot. -/
theorem test_rcp_completes : (nextOf (step (pending 1 107 3 slotTen))).map (fun t => (t.desc.head?, statusWord t)) =
    some (some (slotOf 0x5555555555555556 1 1), 2) := by decide
theorem test_rcp_bad_slot_before_zero : (nextOf (exec (.rcp 4) State.reset)).map statusWord = some 0x122 := by decide
/-- A host-written descriptor; OPD is not read. -/
theorem test_divr_completes : (nextOf (step (pending 2 0xFFFFFFFFFFFFFFFF 12345 (slotOf 0xFFFFFFFFFFFFFFFF 1 0)))).map
    (fun t => (t.result, statusWord t)) = some (0xFFFFFFFFFFFFFFFE, 2) := by decide
theorem test_divr_reserved_bit_before_slot : (afterWr 0x00 0x0F12 State.reset).map statusWord = some 0x112 := by decide
/-- Slot built from 1, OPD = 3: the subtract wraps, then the correction fires. -/
theorem test_modr_completes : (nextOf (step (pending 3 10 3 (slotOf 1 0 0)))).map (fun t => (t.result, t.desc)) =
    some (0xFFFFFFFFFFFFFFE9, [slotOf 1 0 0, Slot.reset, Slot.reset, slotTen]) := by decide
theorem test_modr_mismatched : (nextOf (step (pending 3 107 7 slotTen))).map State.result = some 30 := by decide

/-! ### Host transactions (V-BUS, V-REG) -/

theorem test_hrd_window_end : answer 0x78 State.reset = some ⟨0, false⟩ ∧ answer 0x80 State.reset = some ⟨0, true⟩ ∧
    answer 0x30 State.reset = some ⟨0, true⟩ ∧ answer 0x14 State.reset = some ⟨0, true⟩ := by decide
theorem test_hrd_desc_sh : answer 0x48 (loaded 0 0 slotTen) = some ⟨0x10301, false⟩ := by decide
theorem test_hwr_desc_sh : ((afterWr 0x48 0x103FF State.reset).bind (answer 0x48) = some ⟨0x10301, false⟩) ∧
    ((afterWr 0x48 0xFF00 State.reset).bind (answer 0x48) = some ⟨0x3F00, false⟩) := by decide
/-- B8, then B10: a dropped write, then the write-1-to-clear while BUSY. -/
theorem test_hwr_while_busy : ((afterWr 0x10 5 (pending 1 0 10 Slot.reset)).map fun t => (t.opa, statusWord t)) =
      some (0, 0x201) ∧
    ((afterWr 0x10 5 (pending 1 0 10 Slot.reset)).bind (afterWr 0x08 0x200)).map statusWord = some 1 := by decide

/-! ### Witnesses: the hypotheses of the statements are met -/

theorem witness_DecodeAndEncodeAgree : decode (.command 0xF01) = .ok (.rcp 15) ∧
    decode (.record 0x0FFFFFFFFFFFFFFFFFF) = .ok (.hrd 0xFF 0xFFFFFFFFFFFFFFFF) := by decide

theorem witness_LegalWordsAreTheMaskRows : decodeCommand 0xF03 = .ok ⟨.modr, 15⟩ ∧
    (0xF03#64 &&& 0xFFFFFFFFFFFFF0FF = 3) := by decide

theorem witness_FortyEightLegalCommandWords : 12 ≤ 12 ∧ 0 ≤ 12 ∧ decodeCommand 0xB01 = .ok ⟨.rcp, 11⟩ := by decide

theorem witness_StepRunsTheDecodedRecord :
    engineTurn (idleThen (.record 0x1000000000000000001)) = false ∧
    engineTurn (pendingThen 2 (.record 0x0080000000000000000)) = false ∧
    decodeRecord 0x1000000000000000001 = .hwr 0x00 (encodeCommand ⟨.rcp, 0⟩) := by decide

theorem witness_OfferedTableWordRunsNext : decodeTableWord 64 0xF01 = some (.rcp 15) ∧
    decodeTableWord 64 0x002 = some (.divr 0) ∧ decodeTableWord 64 0xF03 = some (.modr 15) ∧
    decodeTableWord 80 0x0FF0000000000000001 = some (.hrd 0xFF 1) ∧
    decodeTableWord 80 0x1000000000000000003 = some (.hwr 0x00 3) := by decide

theorem witness_BusAccessIsItsTransaction :
    engineTurn (idleThen (.busWrite (Config.rduBase + 0x10) (lanes 5))) = false ∧
    engineTurn (pendingThen 1 (.busRead (Config.rduBase + 0xF8) 8)) = false ∧
    engineTurn (idleThen (.busRead (Config.rduBase + 0xF8) 7)) = false ∧
    engineTurn (idleThen (.busWrite (Config.rduBase + 0x10) [])) = false := ⟨rfl, rfl, rfl, rfl⟩

theorem witness_HostReadReturnsTheRegister : State.reset.ndesc ≤ 12 ∧ twelve.ndesc ≤ 12 ∧
    State.reset.desc[0]? = some Slot.reset ∧ twelve.desc[11]? = some slotTen := by decide

/-- Both sides of each hole and of the bank's end, on a unit of four slots and on one of twelve. -/
theorem witness_BadOffsetsGetBusError : (0x01#8).toNat % 8 ≠ 0 ∧ (0xFF#8).toNat % 8 ≠ 0 ∧
    0x40 + 16 * State.reset.ndesc ≤ (0x80#8).toNat ∧ 0x40 + 16 * State.reset.ndesc ≤ (0xF8#8).toNat ∧
    ¬ (0x40 + 16 * State.reset.ndesc ≤ (0x78#8).toNat) ∧ ¬ (0x40 + 16 * twelve.ndesc ≤ (0xF8#8).toNat) := by decide

theorem witness_MappedOffsetsAnswerOk : (0x78#8).toNat % 8 = 0 ∧ (0x78#8).toNat < 0x40 + 16 * State.reset.ndesc ∧
    (0xF8#8).toNat < 0x40 + 16 * twelve.ndesc ∧ (0x00#8).toNat < 0x40 + 16 * State.reset.ndesc := by decide

theorem witness_OperandWritesStoreTheWord : State.reset.busy = false := by decide

theorem witness_DescMWriteChangesOnlyM : twelve.busy = false ∧ twelve.desc[0]? = some slotTen ∧
    twelve.desc[11]? = some slotTen := by decide

theorem witness_DescShWriteIsWriteAnyReadLegal : State.reset.busy = false ∧
    State.reset.desc[0]? = some Slot.reset ∧ State.reset.desc[3]? = some Slot.reset := by decide

theorem witness_ReadOnlyWritesAreIgnored : State.reset.busy = false ∧ (pending 1 0 10 slotTen).busy = true := by decide

theorem witness_BusyWritesAreDropped : (pending 3 107 10 slotTen).busy = true ∧
    (0x78#8).toNat < 0x40 + 16 * (pending 3 107 10 slotTen).ndesc := by decide

/-- Every clause: illegal by OP and by a reserved bit, slot 4 of four, RCP with OPD = 0, DIVR on an invalid slot, and
each operation accepted. -/
theorem witness_CommandWriteRunsItsChecksInOrder :
    (0x0F11#64).extractLsb' 4 4 ≠ 0 ∧ (0x1001#64).extractLsb' 12 52 ≠ 0 ∧ (0x0004#64).extractLsb' 0 4 = 4 ∧
    State.reset.desc[((0x401#64).extractLsb' 8 4).toNat]? = none ∧
    State.reset.desc[((0x301#64).extractLsb' 8 4).toNat]? = some Slot.reset ∧ State.reset.opd = 0 ∧
    Slot.reset.valid = false ∧
    (loaded 107 10 slotTen).desc[((0x303#64).extractLsb' 8 4).toNat]? = some slotTen ∧ slotTen.valid = true ∧
    (loaded 107 10 slotTen).opd ≠ 0 ∧ (loaded 107 10 slotTen).busy = false := by decide

theorem witness_ReservedBitsAreIllegal : State.reset.busy = false ∧ (0x11#64) &&& 0xFFFFFFFFFFFFF0F0 ≠ 0 ∧
    (0x8000000000000001#64) &&& 0xFFFFFFFFFFFFF0F0 ≠ 0 := by decide

theorem witness_RcpBuildsItsSlot : (loaded 107 10 slotTen).busy = false ∧ (3#4).toNat < (loaded 107 10 slotTen).ndesc ∧
    (loaded 107 10 slotTen).opd ≠ 0 := by decide

/-- Also the hypotheses of ModrWritesTheRemainder. -/
theorem witness_DivrWritesTheQuotient : (loaded 107 10 slotTen).busy = false ∧
    (loaded 107 10 slotTen).desc[(0#4).toNat]? = some slotTen ∧
    (loaded 107 10 slotTen).desc[(3#4).toNat]? = some slotTen ∧ slotTen.valid = true := by decide

theorem witness_ModrWritesTheRemainder : (loaded 107 7 slotTen).busy = false ∧
    (loaded 107 7 slotTen).desc[(3#4).toNat]? = some slotTen ∧ slotTen.valid = true := by decide

/-- An idle unit, and each operation pending with its completion next. -/
theorem witness_EngineStepCompletesThePendingCommand : State.reset.busy = false ∧
    (pending 1 0 10 Slot.reset).busy = true ∧ (pending 1 0 10 Slot.reset).hostLeft = 0 ∧
    (pending 1 0 10 Slot.reset).pendSlot.toNat < (pending 1 0 10 Slot.reset).ndesc ∧
    computeReciprocal (pending 1 0 10 Slot.reset).opd = some slotTen.toDescriptor ∧
    (pending 2 107 0 slotTen).pendOp = 2 ∧ (pending 3 107 0 slotTen).pendOp = 3 ∧
    (pending 3 107 0 slotTen).desc[(pending 3 107 0 slotTen).pendSlot.toNat]? = some slotTen := by decide

theorem witness_FindLastSetIsTheBitLength : (1 : Word) ≠ 0 ∧ fls64 0x8000000000000000 = 64 := by decide

theorem witness_ReciprocalIntermediatesFit : (1 : Word) ≠ 0 ∧ (2 : Word) ≠ 1 ∧ fls64 (2 - 1) = 1 ∧
    fls64 (0x8000000000000000 - 1) = 63 ∧ fls64 (0x8000000000000001 - 1) = 64 := by decide

/-- A power of two and a divisor that is none. -/
theorem witness_ReciprocalMultiplierIsExact : computeReciprocal 0x8000000000000000 = some ⟨1, 1, 62⟩ ∧
    computeReciprocal 3 = some ⟨0x5555555555555556, 1, 1⟩ := by decide

theorem witness_ReciprocalShiftsAreInRange : computeReciprocal 1 = some ⟨1, 0, 0⟩ ∧
    computeReciprocal 2 = some ⟨1, 1, 0⟩ ∧ computeReciprocal 0xFFFFFFFFFFFFFFFE = some ⟨3, 1, 63⟩ := by decide

theorem witness_ZeroDivisorIsRejected : State.reset.busy = false ∧ (3#4).toNat < State.reset.ndesc ∧
    State.reset.opd = 0 ∧ (pending 1 0 0 slotTen).pendOp = 1 ∧ (pending 1 0 0 slotTen).opd = 0 ∧
    (pending 1 0 0 slotTen).pendSlot.toNat < (pending 1 0 0 slotTen).ndesc := by decide

theorem witness_PowerOfTwoDivisorsShift : computeReciprocal (BitVec.ofNat 64 (2 ^ 0)) = some ⟨1, 0, 0⟩ ∧
    computeReciprocal (BitVec.ofNat 64 (2 ^ 63)) = some ⟨1, 1, 62⟩ := by decide

/-- Also the hypotheses of ReciprocalRemainderIsExact; the largest divisor. -/
theorem witness_ReciprocalDivideIsExact : (loaded 0 0xFFFFFFFFFFFFFFFF Slot.reset).busy = false ∧
    (3#4).toNat < (loaded 0 0xFFFFFFFFFFFFFFFF Slot.reset).ndesc ∧
    (loaded 0 0xFFFFFFFFFFFFFFFF Slot.reset).opd ≠ 0 := by decide

theorem witness_ReciprocalRemainderIsExact : (loaded 0 1 Slot.reset).busy = false ∧
    (0#4).toNat < (loaded 0 1 Slot.reset).ndesc ∧ (loaded 0 1 Slot.reset).opd ≠ 0 := by decide

theorem witness_MatchingRemainderNeedsNoCorrection : computeReciprocal 1 = some ⟨1, 0, 0⟩ ∧
    computeReciprocal 10 = some slotTen.toDescriptor := by decide

theorem witness_ModrByZeroReturnsTheDividend : (loaded 107 0 slotTen).busy = false ∧
    (loaded 107 0 slotTen).desc[(0#4).toNat]? = some slotTen ∧ slotTen.valid = true ∧
    (loaded 107 0 slotTen).opd = 0 := by decide

/-- Reset while idle and while a command is in flight. -/
theorem witness_ResetEventAbandonsTheCommand : engineTurn (idleThen .reset) = false ∧
    engineTurn (pendingThen 3 .reset) = false ∧ (pendingThen 3 .reset).inputs = .reset :: [] := by decide

/-- A good idle unit with an input, and a good one with a pending command. -/
theorem witness_EveryStepKeepsTheUnitGood : (idleThen (.record 0x110000000000000006B)).Inv ∧
    (∃ t, step (idleThen (.record 0x110000000000000006B)) = .next t) ∧
    (pending 2 107 10 slotTen).Inv ∧ ∃ t, step (pending 2 107 10 slotTen) = .next t :=
  ⟨⟨by decide, by decide, by decide, by decide⟩, ⟨_, rfl⟩, ⟨by decide, by decide, by decide, by decide⟩, ⟨_, rfl⟩⟩

/-- Both outcomes of GoodUnitNeverStops: a step, and a refusal of an input without a meaning. -/
theorem witness_GoodUnitNeverStops : State.reset.Inv ∧ (∃ t, step State.reset = .next t) ∧
    (idleThen (.duringReset 0)).Inv ∧ (Input.duringReset 0).refusedKind = true ∧
    step (idleThen (.duringReset 0)) = .refused .transactionDuringReset :=
  ⟨⟨by decide, by decide, by decide, by decide⟩, ⟨_, rfl⟩, ⟨by decide, by decide, by decide, by decide⟩, rfl, rfl⟩

/-- A write while BUSY, and reset while BUSY. -/
theorem witness_PendingCommandIsUndisturbed :
    (pendingThen 2 (.record 0x1100000000000000005)).busy = true ∧
    engineTurn (pendingThen 2 (.record 0x1100000000000000005)) = false ∧
    (∃ t, step (pendingThen 2 (.record 0x1100000000000000005)) = .next t ∧ t.overrun = true ∧ t.opa = 107) ∧
    engineTurn (pendingThen 2 .reset) = false ∧ ∃ t, step (pendingThen 2 .reset) = .next t :=
  ⟨rfl, rfl, ⟨_, rfl, rfl, rfl⟩, rfl, ⟨_, rfl⟩⟩

/-- A completion, and reset. -/
theorem witness_ResultChangesOnlyByDivision :
    (∃ t, step (pending 3 107 7 slotTen) = .next t ∧ t.result ≠ (pending 3 107 7 slotTen).result) ∧
    ∃ t, step { idleThen .reset with result := 9 } = .next t ∧ t.result ≠ 9 :=
  ⟨⟨_, rfl, by decide⟩, ⟨_, rfl, by decide⟩⟩

theorem witness_OperandsChangeOnlyByHostWrite :
    (∃ t, step (idleThen (.record 0x1100000000000000005)) = .next t ∧ t.opa ≠ 107) ∧
    (∃ t, step (idleThen (.record 0x1180000000000000005)) = .next t ∧ t.opd ≠ 10) ∧
    ∃ t, step (idleThen .reset) = .next t ∧ t.opa ≠ 107 ∧ t.opd ≠ 10 :=
  ⟨⟨_, rfl, by decide⟩, ⟨_, rfl, by decide⟩, ⟨_, rfl, by decide⟩⟩

/-- DESC_SH[0] and DESC_SH[3] written with bit 16 clear, and reset. -/
theorem witness_ValidIsClearedOnlyByHostOrReset :
    (∃ t, step (idleThen (.record 0x1480000000000000301)) = .next t ∧
      (idleThen .wait).desc[0]? = some slotTen ∧ t.desc[0]? = some { slotTen with valid := false }) ∧
    (∃ t, step (idleThen (.record 0x1780000000000000000)) = .next t ∧ t.desc[3]? = some
      { slotTen with sh1 := 0, sh2 := 0, valid := false }) ∧
    ∃ t, step (idleThen .reset) = .next t ∧ t.desc[3]? = some Slot.reset :=
  ⟨⟨_, rfl, rfl, rfl⟩, ⟨_, rfl, rfl⟩, ⟨_, rfl, rfl⟩⟩

/-- Each bit cleared by its own write, and both by reset. -/
theorem witness_StickyBitsAreClearedOnlyByHostOrReset :
    (∃ t, step { idleThen (.record 0x1080000000000000100) with errSticky := true, overrun := true } = .next t ∧
      t.errSticky = false ∧ t.overrun = true) ∧
    (∃ t, step { idleThen (.record 0x1080000000000000200) with errSticky := true, overrun := true } = .next t ∧
      t.errSticky = true ∧ t.overrun = false) ∧
    ∃ t, step { idleThen .reset with errSticky := true, overrun := true } = .next t ∧
      t.errSticky = false ∧ t.overrun = false :=
  ⟨⟨_, rfl, rfl, rfl⟩, ⟨_, rfl, rfl, rfl⟩, ⟨_, rfl, rfl, rfl⟩⟩

/-- BUSY cleared by completion and by reset, set by an accept. -/
theorem witness_BusyChangesOnlyByItsEvents :
    (∃ t, step (pending 1 0 10 Slot.reset) = .next t ∧ t.busy = false) ∧
    (∃ t, step (pendingThen 1 .reset) = .next t ∧ t.busy = false) ∧
    (idleThen (.record 0x1000000000000000301)).busy = false ∧
    ∃ t, step (idleThen (.record 0x1000000000000000301)) = .next t ∧ t.busy = true ∧ t.pendSlot = 3 :=
  ⟨⟨_, rfl, rfl⟩, ⟨_, rfl, rfl⟩, rfl, ⟨_, rfl, rfl, rfl⟩⟩

/-- Two states that differ in all the completion of each operation does not read. -/
theorem witness_CompletionReadsOnlyItsOperands :
    (pending 1 5 10 slotTen).opd = (pending 1 6 10 Slot.reset).opd ∧
    (∃ t, complete (pending 1 5 10 slotTen) = .next t) ∧
    (pending 2 107 1 slotTen).opa = (pending 2 107 2 slotTen).opa ∧
    (pending 2 107 1 slotTen).desc[0]? = (pending 2 107 2 slotTen).desc[0]? ∧
    (∃ t, complete (pending 2 107 1 slotTen) = .next t) ∧
    ∃ t, complete (pending 3 107 7 slotTen) = .next t :=
  ⟨rfl, ⟨_, rfl⟩, rfl, rfl, ⟨_, rfl⟩, ⟨_, rfl⟩⟩

theorem witness_SavedDescriptorRestores : twelve.desc[11]? = some slotTen ∧ State.reset.desc[0]? = some Slot.reset ∧
    State.reset.busy = false ∧ twelve.busy = false := by decide

/-- Idle and with a command in flight. -/
theorem witness_WaitEnds : (idleThen .wait).Inv ∧ (idleThen .wait).inputs = .wait :: [] ∧ (pendingThen 3 .wait).Inv ∧
    (pendingThen 3 .wait).inputs = .wait :: [] :=
  ⟨⟨by decide, by decide, by decide, by decide⟩, rfl, ⟨by decide, by decide, by decide, by decide⟩, rfl⟩

/-- A host script on the unit after reset. -/
def scripted (xs : List Input) : State := { State.reset with inputs := xs }

theorem witness_SetdThenDivAnswersTheQuotient : (scripted (expand (.setd 10 3) ++ expand (.div 107 3) ++ [])).Inv ∧
    (scripted (expand (.setd 10 3) ++ expand (.div 107 3) ++ [])).busy = false ∧ (10 : Word) ≠ 0 ∧
    (3#4).toNat < (scripted []).ndesc :=
  ⟨⟨by decide, by decide, by decide, by decide⟩, rfl, by decide, by decide⟩

theorem witness_SetdThenModAnswersTheRemainder : (scripted (expand (.setd 1 0) ++ expand (.mod 107 0) ++ [])).Inv ∧
    (scripted (expand (.setd 1 0) ++ expand (.mod 107 0) ++ [])).busy = false ∧ (1 : Word) ≠ 0 ∧
    (0#4).toNat < (scripted []).ndesc :=
  ⟨⟨by decide, by decide, by decide, by decide⟩, rfl, by decide, by decide⟩

theorem witness_WriteWithoutWaitHasTwoOutcomes :
    let s : State := { loaded 107 10 slotTen with
      inputs := expand (.rcp 3) ++ expand (.wr (.name .opd) 7) ++ expand .wait ++ [] }
    s.Inv ∧ s.busy = false ∧ s.opd ≠ 0 ∧ (3#4).toNat < s.ndesc :=
  ⟨⟨by decide, by decide, by decide, by decide⟩, rfl, by decide, by decide⟩

end Sys2Proof.Tests
end

/-! PROOF. The primitives fls64 and mulhi64 (spec/00_scope.md R10, R11), and the invariant: what makes a state good in
each of the unit's three phases (quiet, pending, ended), that every shared operation keeps a good state good, and from
these that every step does. -/

namespace Sys2Proof.Machine

/-! ### fls64 -/

theorem toNat_lt_two_pow_fls64 (x : Word) : x.toNat < 2 ^ fls64 x := by
  by_cases h : x = 0
  · subst h; decide
  · rw [fls64_of_ne_zero h]; exact Nat.lt_log2_self

theorem fls64_pos {x : Word} (h : x ≠ 0) : 1 ≤ fls64 x := by
  rw [fls64_of_ne_zero h]; exact Nat.le_add_left 1 _

theorem two_pow_fls64_sub_one_le {x : Word} (h : x ≠ 0) : 2 ^ (fls64 x - 1) ≤ x.toNat := by
  have hx : x.toNat ≠ 0 := fun h0 => h (BitVec.eq_of_toNat_eq h0)
  rw [fls64_of_ne_zero h, Nat.add_sub_cancel]
  exact Nat.log2_self_le hx

theorem fls64_le (x : Word) : fls64 x ≤ 64 := by
  by_cases h : x = 0
  · subst h; decide
  · have hpow : 2 ^ (fls64 x - 1) < 2 ^ 64 := (two_pow_fls64_sub_one_le h).trans_lt x.isLt
    have := (Nat.pow_lt_pow_iff_right (by decide)).mp hpow
    omega

/-- Settles O24: the bounds are those of the binary logarithm, and 64 is the width. -/
theorem findLastSetIsTheBitLength : Obligations.FindLastSetIsTheBitLength := by
  refine ⟨fls64_zero, by decide, by decide, fun x => ?_⟩
  exact ⟨toNat_lt_two_pow_fls64 x, fls64_le x, fun h => ⟨fls64_pos h, two_pow_fls64_sub_one_le h⟩⟩

/-! ### mulhi64 -/

/-- The product of two zero-extended words does not wrap in 128 bits. -/
theorem setWidth_mul_toNat (a m : Word) :
    (a.setWidth 128 * m.setWidth 128).toNat = a.toNat * m.toNat := by
  have hlt : a.toNat * m.toNat < 2 ^ 128 :=
    (Nat.mul_lt_mul'' a.isLt m.isLt).trans_eq (by norm_num)
  have hwide (v : Word) : (v.setWidth 128).toNat = v.toNat := BitVec.toNat_setWidth_of_le (by decide)
  rw [BitVec.toNat_mul, hwide, hwide, Nat.mod_eq_of_lt hlt]

theorem mulhi64_eq_extractLsb' (a m : Word) :
    mulhi64 a m = (a.setWidth 128 * m.setWidth 128).extractLsb' 64 64 := by
  apply BitVec.eq_of_toNat_eq
  rw [BitVec.extractLsb'_toNat, setWidth_mul_toNat, Nat.shiftRight_eq_div_pow, mulhi64, BitVec.toNat_ofNat]

/-- Settles O25: the 128-bit product is exact, so its high half is the quotient by 2^64. -/
theorem mulhiIsTheHighHalfOfTheProduct : Obligations.MulhiIsTheHighHalfOfTheProduct := by
  intro a m
  refine ⟨mulhi64_eq_extractLsb' a m, ?_, ?_⟩ <;> rw [mulhi64_toNat]
  · exact Nat.div_mul_le_self _ _
  · exact Nat.lt_mul_of_div_lt (Nat.lt_succ_self _) (by decide)

/-! ### Good states, by phase -/

/-- The invariant reads neither OPA nor any of the model's own fields. -/
theorem State.Inv.congr {s t : State} (hs : s.Inv) (hopd : t.opd = s.opd) (hresult : t.result = s.result)
    (hdesc : t.desc = s.desc) (hbusy : t.busy = s.busy) (hdone : t.done = s.done) (herr : t.err = s.err)
    (hsticky : t.errSticky = s.errSticky) (hoverrun : t.overrun = s.overrun) (hop : t.pendOp = s.pendOp)
    (hslot : t.pendSlot = s.pendSlot) : t.Inv := by
  obtain ⟨hlegal, hwritten, hpending, hquiet⟩ := hs
  constructor
  · rwa [ndesc_congr hdesc]
  · rwa [herr]
  · rw [pendingAccepted, ndesc_congr hdesc, slotAt_congr hdesc, hopd, hbusy, hdone, herr, hop, hslot]
    exact hpending
  · rw [hbusy, hdone, herr, hsticky, hoverrun, hresult]
    exact hquiet

/-- While BUSY = 0 the invariant asks nothing of OPD, of PEND or of what a slot holds. -/
theorem State.Inv.congr_of_idle {s t : State} (hs : s.Inv) (hidle : s.busy = false) (hresult : t.result = s.result)
    (hndesc : t.ndesc = s.ndesc) (hbusy : t.busy = s.busy) (hdone : t.done = s.done) (herr : t.err = s.err)
    (hsticky : t.errSticky = s.errSticky) (hoverrun : t.overrun = s.overrun) : t.Inv := by
  obtain ⟨hlegal, hwritten, -, hquiet⟩ := hs
  constructor
  · rwa [hndesc]
  · rwa [herr]
  · intro hb; simp [hbusy, hidle] at hb
  · rw [hbusy, hdone, herr, hsticky, hoverrun, hresult]
    exact hquiet

/-- A unit whose last command has ended is good if its bank is legal and its code is a written one. -/
theorem inv_of_done {t : State} (hndesc : Config.ndescMin ≤ t.ndesc ∧ t.ndesc ≤ Config.ndescMax)
    (herr : t.err.toNat ≤ 4) (hbusy : t.busy = false) (hdone : t.done = true) : t.Inv := by
  constructor
  · exact hndesc
  · exact herr
  · intro hb; simp [hbusy] at hb
  · intro _ hd; simp [hdone] at hd

/-! ### The shared operations keep a good state good -/

theorem respond_inv {s : State} (hs : s.Inv) (v : Word) (e : Bool) : (respond v e s).Inv :=
  hs.congr rfl rfl rfl rfl rfl rfl rfl rfl rfl rfl

theorem respondOk_inv {s : State} (hs : s.Inv) : (respondOk s).Inv := respond_inv hs 0 false

theorem takeInput_inv {s : State} (hs : s.Inv) (x : Input) (rest : List Input) : (takeInput x rest s).Inv :=
  hs.congr rfl rfl rfl rfl rfl rfl rfl rfl rfl rfl

/-- Only a busy unit drops writes: an idle one that has ended no command must not report OVERRUN. -/
theorem dropWrite_inv {s : State} (hs : s.Inv) (hbusy : s.busy = true) : (dropWrite s).Inv := by
  obtain ⟨hlegal, hwritten, hpending, -⟩ := hs
  constructor
  · exact hlegal
  · exact hwritten
  · exact hpending
  · intro hb; simp [hbusy] at hb

theorem clearSticky_inv {s : State} (hs : s.Inv) (w : Word) : (clearSticky w s).Inv := by
  obtain ⟨hlegal, hwritten, hpending, hquiet⟩ := hs
  constructor
  · exact hlegal
  · exact hwritten
  · exact hpending
  · intro hb hd
    obtain ⟨herr, hsticky, hoverrun, hresult⟩ := hquiet hb hd
    exact ⟨herr, by simp [hsticky], by simp [hoverrun], hresult⟩

theorem writeOpa_inv {s : State} (hs : s.Inv) (v : Word) : (writeOpa v s).Inv :=
  hs.congr rfl rfl rfl rfl rfl rfl rfl rfl rfl rfl

theorem writeOpd_inv {s : State} (hs : s.Inv) (hidle : s.busy = false) (v : Word) : (writeOpd v s).Inv :=
  hs.congr_of_idle hidle rfl rfl rfl rfl rfl rfl rfl

theorem setSlot_inv {s : State} (hs : s.Inv) (hidle : s.busy = false) (k : Nat) (d : Slot) : (setSlot k d s).Inv :=
  hs.congr_of_idle hidle rfl (setSlot_ndesc k d s) rfl rfl rfl rfl rfl

theorem code_toNat_le (e : CmdError) : e.code.toNat ≤ 4 := by cases e <;> decide

theorem reject_inv {s : State} (hs : s.Inv) (hidle : s.busy = false) (e : CmdError) : (reject e s).Inv :=
  inv_of_done hs.ndesc_legal (code_toNat_le e) hidle rfl

/-- The accept checks of an operation are what the invariant asks of the pending command. -/
theorem accept_inv {s : State} (hs : s.Inv) {op : CmdOp} {k : SlotIndex} (hk : k.toNat < s.ndesc)
    (hd : op = .rcp → s.opd ≠ 0) (hv : op ≠ .rcp → (s.slotAt k.toNat).valid = true) : (accept op k s).Inv := by
  constructor
  · exact hs.ndesc_legal
  · exact Nat.zero_le 4
  · intro _
    refine ⟨rfl, rfl, hk, ?_⟩
    cases op with
    | rcp => exact .inl ⟨rfl, hd rfl⟩
    | divr => exact .inr ⟨.inl rfl, hv (by decide)⟩
    | modr => exact .inr ⟨.inr rfl, hv (by decide)⟩
  · intro hb; simp at hb

theorem resetUnit_ndesc (s : State) : (resetUnit s).ndesc = s.ndesc := List.length_replicate

theorem resetUnit_inv {s : State} (hs : s.Inv) : (resetUnit s).Inv := by
  constructor
  · rw [resetUnit_ndesc]; exact hs.ndesc_legal
  · exact Nat.zero_le 4
  · intro hb; simp at hb
  · intro _ _; exact ⟨rfl, rfl, rfl, rfl⟩

theorem setCompleted_inv {u : State} (hndesc : Config.ndescMin ≤ u.ndesc ∧ u.ndesc ≤ Config.ndescMax)
    (herr : u.err.toNat ≤ 4) : (setCompleted u).Inv := inv_of_done hndesc herr rfl rfl

/-! ### Every step keeps a good state good -/

theorem complete_inv {s t : State} (hs : s.Inv) (h : complete s = .next t) : t.Inv := by
  obtain ⟨hlegal, hwritten, -, -⟩ := hs
  obtain ⟨-, ⟨-, r, -, rfl⟩ | ⟨-, rfl⟩ | ⟨-, rfl⟩⟩ := complete_cases h
  · exact setCompleted_inv (by rwa [setSlot_ndesc]) hwritten
  · exact setCompleted_inv hlegal hwritten
  · exact setCompleted_inv hlegal hwritten

theorem HostEffect.inv {i : Instr} {s t : State} (h : HostEffect i s t) (hs : s.Inv) : t.Inv := by
  cases h with
  | answered v e => exact respond_inv hs v e
  | dropped hb => exact dropWrite_inv hs hb
  | cleared w _ => exact respondOk_inv (clearSticky_inv hs w)
  | opaWritten v _ _ => exact respondOk_inv (writeOpa_inv hs v)
  | opdWritten v hb _ => exact respondOk_inv (writeOpd_inv hs hb v)
  | descMWritten k v hb _ _ => exact respondOk_inv (setSlot_inv hs hb _ _)
  | descShWritten k v hb _ _ => exact respondOk_inv (setSlot_inv hs hb _ _)
  | rejected e hb => exact respondOk_inv (reject_inv hs hb e)
  | accepted c _ hk hd hv _ => exact respondOk_inv (accept_inv hs hk hd hv)

theorem step_inv {s t : State} (hs : s.Inv) (h : step s = .next t) : t.Inv := by
  obtain ⟨-, hc⟩ | ⟨-, -, rfl⟩ | ⟨-, x, rest, -, ⟨i, -, heff⟩ | ⟨-, rfl⟩⟩ := step_cases h
  · exact complete_inv hs hc
  · exact hs
  · exact heff.inv (takeInput_inv hs x rest)
  · exact resetUnit_inv (takeInput_inv hs x rest)

/-- Settles O40, by the cases of a step: a completion, silence, a host transaction or the reset event. -/
theorem everyStepKeepsTheUnitGood : Obligations.EveryStepKeepsTheUnitGood :=
  fun _ _ => step_inv

end Sys2Proof.Machine

/-! PROOF. What may change each register (spec/10_state.md R22, R23, R29, R30, R34, R37, R38) and the reset state (R43):
first what a completion and what a host transaction leave in each register, then the step that changes it. -/

namespace Sys2Proof.Machine

/-! ### What a completion leaves -/

/-- A completion writes neither the operands nor the sticky bits. -/
theorem complete_frame {s t : State} (h : complete s = .next t) :
    t.opa = s.opa ∧ t.opd = s.opd ∧ t.errSticky = s.errSticky ∧ t.overrun = s.overrun := by
  obtain ⟨-, ⟨-, r, -, rfl⟩ | ⟨-, rfl⟩ | ⟨-, rfl⟩⟩ := complete_cases h <;> exact ⟨rfl, rfl, rfl, rfl⟩

/-- RCP's completion, the one that writes no RESULT, is excluded. -/
theorem pendOp_of_complete_result_ne {s t : State} (h : complete s = .next t) (hne : t.result ≠ s.result) :
    s.pendOp = 2 ∨ s.pendOp = 3 := by
  obtain ⟨-, ⟨-, r, -, rfl⟩ | ⟨hop, -⟩ | ⟨hop, -⟩⟩ := complete_cases h
  · exact absurd rfl hne
  · exact .inl hop
  · exact .inr hop

/-- A slot of the bank after a slot write is the one written or an old one. -/
theorem getElem?_setSlot_cases {j k : Nat} {d q : Slot} {s : State} (h : (setSlot k d s).desc[j]? = some q) :
    (j = k ∧ q = d) ∨ s.desc[j]? = some q := by
  by_cases hjk : j = k
  · subst hjk
    have hj : j < s.ndesc := setSlot_ndesc j d s ▸ lt_ndesc_of_getElem? h
    exact .inl ⟨rfl, (slotAt_of_getElem? h).symm.trans (setSlot_slotAt_self d hj)⟩
  · rw [setSlot_desc, List.getElem?_set_ne (Ne.symm hjk)] at h
    exact .inr h

/-- The slot a completion builds is valid; every other slot is as it was (10_state R29). -/
theorem complete_slot {s t : State} {j : Nat} {q : Slot} (h : complete s = .next t) (hq : t.desc[j]? = some q) :
    q.valid = true ∨ s.desc[j]? = some q := by
  obtain ⟨-, ⟨-, r, -, rfl⟩ | ⟨-, rfl⟩ | ⟨-, rfl⟩⟩ := complete_cases h
  · obtain ⟨-, rfl⟩ | hold := getElem?_setSlot_cases hq
    · exact .inl rfl
    · exact .inr hold
  · exact .inr hq
  · exact .inr hq

/-! ### What a host transaction leaves -/

namespace HostEffect

variable {i : Instr} {s t : State}

theorem result_eq (h : HostEffect i s t) : t.result = s.result := by cases h <;> rfl

theorem operands (h : HostEffect i s t) :
    (t.opa = s.opa ∨ (s.busy = false ∧ i = .hwr 0x10 t.opa)) ∧
    (t.opd = s.opd ∨ (s.busy = false ∧ i = .hwr 0x18 t.opd)) := by
  cases h with
  | opaWritten v hb hi => exact ⟨.inr ⟨hb, hi⟩, .inl rfl⟩
  | opdWritten v hb hi => exact ⟨.inl rfl, .inr ⟨hb, hi⟩⟩
  | _ => exact ⟨.inl rfl, .inl rfl⟩

/-- VALID of a slot is kept, but for a write to its DESC_SH, which gives it bit 16 of the data. -/
theorem slot_valid {j : Nat} {q : Slot} (h : HostEffect i s t) (hq : t.desc[j]? = some q) :
    (∃ p, s.desc[j]? = some p ∧ q.valid = p.valid) ∨
    (s.busy = false ∧ j < 12 ∧ ∃ w : Word, q.valid = w.getLsbD 16 ∧
      i = .hwr (BitVec.ofNat 8 (0x48 + 16 * j)) w) := by
  cases h with
  | descMWritten k v hb hk hi =>
    obtain ⟨rfl, rfl⟩ | hold := getElem?_setSlot_cases hq
    · exact .inl ⟨s.slotAt k, getElem?_of_lt_ndesc hk, rfl⟩
    · exact .inl ⟨q, hold, rfl⟩
  | descShWritten k v hb hk hi =>
    obtain ⟨rfl, rfl⟩ | hold := getElem?_setSlot_cases hq
    · exact .inr ⟨hb, k.isLt, v, rfl, hi⟩
    · exact .inl ⟨q, hold, rfl⟩
  | _ => exact .inl ⟨q, hq, rfl⟩

/-- The sticky bits only rise, but for a STATUS write with the bit set. -/
theorem sticky_cleared (h : HostEffect i s t) :
    (s.errSticky = true → t.errSticky = false → ∃ w : Word, w.getLsbD 8 = true ∧ i = .hwr 0x08 w) ∧
    (s.overrun = true → t.overrun = false → ∃ w : Word, w.getLsbD 9 = true ∧ i = .hwr 0x08 w) := by
  cases h with
  | cleared w hi =>
    exact ⟨fun hs ht => ⟨w, by simpa [hs] using ht, hi⟩, fun hs ht => ⟨w, by simpa [hs] using ht, hi⟩⟩
  | _ => constructor <;> intro hs ht <;> simp [hs] at ht

/-- No transaction clears BUSY, and only an accept sets it. -/
theorem busy_cases (h : HostEffect i s t) :
    t.busy = s.busy ∨
    ∃ c : Command, (i = c.instr ∨ ∃ w, i = .hwr 0x00 w ∧ decodeCommand w = .ok c) ∧
      c.slot.toNat < s.ndesc ∧ t.busy = true ∧ t.pendOp = pendCode c.op ∧ t.pendSlot = c.slot := by
  cases h with
  | accepted c hb hk hd hv hi => exact .inr ⟨c, hi, hk, rfl, rfl, rfl⟩
  | _ => exact .inl rfl

end HostEffect

/-! ### Steps that take an input -/

theorem decodeRecord_cases (r : Record) :
    ∃ off d, decodeRecord r = .hrd off d ∨ decodeRecord r = .hwr off d := by
  unfold decodeRecord
  split
  · exact ⟨_, _, .inr rfl⟩
  · exact ⟨_, _, .inl rfl⟩

theorem busEvent_eq_instr {addr width : Nat} {f : Offset → Instr} {i : Instr}
    (h : busEvent addr width f = .instr i) : i = f (windowOffset addr) := by
  unfold busEvent at h
  split_ifs at h
  exact (Event.instr.inj h).symm

/-- The host port asks for reads and writes alone: a command reaches the unit as the CMD write of its word. -/
theorem eventOf_eq_instr {x : Input} {i : Instr} (h : eventOf x = .instr i) :
    ∃ off d, i = .hrd off d ∨ i = .hwr off d := by
  cases x with
  | record r => obtain rfl := Event.instr.inj h; exact decodeRecord_cases r
  | busRead addr width => exact ⟨_, _, .inl (busEvent_eq_instr (f := fun off => .hrd off 0) h)⟩
  | busWrite addr bytes => exact ⟨_, _, .inr (busEvent_eq_instr (f := fun off => .hwr off (joinLanes bytes)) h)⟩
  | wait => exact ⟨_, _, .inl (Event.instr.inj h).symm⟩
  | reset => cases h
  | duringReset r => cases h

theorem eventOf_ne_command (x : Input) (c : Command) : eventOf x ≠ .instr c.instr := by
  intro h
  obtain ⟨off, d, hi⟩ := eventOf_eq_instr h
  obtain ⟨op, k⟩ := c
  cases op <;> simp [Command.instr] at hi

/-- A step that changes the state otherwise than a completion takes a host input: the reset event, or a transaction, of
which its effect tells `Q`. -/
theorem input_taken_of_step {s t : State} {Q : Input → Prop} (h : step s = .next t) (hchanged : t ≠ s)
    (hengine : complete s ≠ .next t)
    (hhost : ∀ x rest i, eventOf x = .instr i → HostEffect i (takeInput x rest s) t → Q x) :
    engineTurn s = false ∧ ∃ x rest, s.inputs = x :: rest ∧ (x = .reset ∨ Q x) := by
  obtain ⟨-, hc⟩ | ⟨-, -, rfl⟩ | ⟨he, x, rest, hin, ⟨i, hx, heff⟩ | ⟨hx, -⟩⟩ := step_cases h
  · exact absurd hc hengine
  · exact absurd rfl hchanged
  · exact ⟨he, x, rest, hin, .inr (hhost x rest i hx heff)⟩
  · exact ⟨he, x, rest, hin, .inl hx⟩

/-! ### The obligations -/

/-- Settles O43: a completion other than RCP's, silence, a host transaction or the reset event. -/
theorem resultChangesOnlyByDivision : Obligations.ResultChangesOnlyByDivision := by
  intro s t h hne
  obtain ⟨he, hc⟩ | ⟨-, -, rfl⟩ | ⟨he, x, rest, hin, ⟨i, -, heff⟩ | ⟨rfl, -⟩⟩ := step_cases h
  · exact .inl ⟨he, pendOp_of_complete_result_ne hc hne⟩
  · exact absurd rfl hne
  · exact absurd heff.result_eq hne
  · exact .inr ⟨he, rest, hin⟩

/-- Settles O44: a completion keeps both operands, so the step took an input. -/
theorem operandsChangeOnlyByHostWrite : Obligations.OperandsChangeOnlyByHostWrite := by
  intro s t h
  constructor <;> intro hne
  · refine input_taken_of_step h (fun heq => hne (heq ▸ rfl)) (fun hc => hne (complete_frame hc).1) ?_
    intro x rest i hx heff
    obtain ⟨hb, rfl⟩ := heff.operands.1.resolve_left hne
    exact ⟨hb, hx⟩
  · refine input_taken_of_step h (fun heq => hne (heq ▸ rfl)) (fun hc => hne (complete_frame hc).2.1) ?_
    intro x rest i hx heff
    obtain ⟨hb, rfl⟩ := heff.operands.2.resolve_left hne
    exact ⟨hb, hx⟩

/-- Settles O45: a completion only sets VALID, so the step took an input, and of the transactions a DESC_SH write alone
gives VALID a new value. -/
theorem validIsClearedOnlyByHostOrReset : Obligations.ValidIsClearedOnlyByHostOrReset := by
  intro s t j p q h hp hpv hq hqv
  have hgone : s.desc[j]? ≠ some q := by
    rw [hp]; rintro ⟨⟩; simp [hpv] at hqv
  refine input_taken_of_step h (fun heq => hgone (heq ▸ hq)) ?_ ?_
  · intro hc
    obtain hset | hold := complete_slot hc hq
    · simp [hset] at hqv
    · exact hgone hold
  · intro x rest i hx heff
    obtain ⟨p', hp', hkept⟩ | ⟨hb, hj, w, hbit, rfl⟩ := heff.slot_valid hq
    · obtain rfl : p = p' := Option.some.inj (hp.symm.trans hp')
      simp [hkept, hpv] at hqv
    · exact ⟨hb, hj, w, hbit ▸ hqv, hx⟩

/-- Settles O46: a completion keeps both sticky bits, so the step took an input. -/
theorem stickyBitsAreClearedOnlyByHostOrReset : Obligations.StickyBitsAreClearedOnlyByHostOrReset := by
  intro s t h
  constructor <;> intro hs ht
  · have hne : t.errSticky ≠ s.errSticky := by simp [hs, ht]
    refine input_taken_of_step h (fun heq => hne (heq ▸ rfl)) (fun hc => hne (complete_frame hc).2.2.1) ?_
    intro x rest i hx heff
    obtain ⟨w, hw, rfl⟩ := heff.sticky_cleared.1 hs ht
    exact ⟨w, hw, hx⟩
  · have hne : t.overrun ≠ s.overrun := by simp [hs, ht]
    refine input_taken_of_step h (fun heq => hne (heq ▸ rfl)) (fun hc => hne (complete_frame hc).2.2.2) ?_
    intro x rest i hx heff
    obtain ⟨w, hw, rfl⟩ := heff.sticky_cleared.2 hs ht
    exact ⟨w, hw, hx⟩

/-- BUSY is cleared only by the engine's step and by reset (10_state R34). -/
theorem busy_cleared_by_step {s t : State} (h : step s = .next t) (hs : s.busy = true) (ht : t.busy = false) :
    engineTurn s = true ∨ ∃ rest, s.inputs = .reset :: rest := by
  obtain ⟨he, -⟩ | ⟨-, -, rfl⟩ | ⟨-, x, rest, hin, ⟨i, -, heff⟩ | ⟨rfl, -⟩⟩ := step_cases h
  · exact .inl he
  · simp [hs] at ht
  · obtain hkept | ⟨c, -, -, hset, -, -⟩ := heff.busy_cases
    · simp [hkept, hs] at ht
    · simp [hset] at ht
  · exact .inr ⟨rest, hin⟩

/-- BUSY is set only by the accept of a command, which latches PEND (10_state R34, 40_host_access R91). -/
theorem busy_set_by_step {s t : State} (h : step s = .next t) (hs : s.busy = false) (ht : t.busy = true) :
    ∃ (x : Input) (rest : List Input) (c : Command), s.inputs = x :: rest ∧
      eventOf x = .instr (.hwr 0x00 (encodeCommand c)) ∧ c.slot.toNat < s.ndesc ∧
      t.pendOp = pendCode c.op ∧ t.pendSlot = c.slot := by
  obtain ⟨he, -⟩ | ⟨-, -, rfl⟩ | ⟨-, x, rest, hin, ⟨i, hx, heff⟩ | ⟨-, rfl⟩⟩ := step_cases h
  · simp [engineTurn_of_idle hs] at he
  · simp [hs] at ht
  · obtain hkept | ⟨c, rfl | ⟨w, rfl, hdec⟩, hk, -, hop, hslot⟩ := heff.busy_cases
    · simp [hkept, hs] at ht
    · exact absurd hx (eventOf_ne_command x c)
    · exact ⟨x, rest, c, hin, by rw [encodeCommand_of_decodeCommand hdec, hx], hk, hop, hslot⟩
  · simp at ht

/-- Settles O47: the two edges of BUSY. -/
theorem busyChangesOnlyByItsEvents : Obligations.BusyChangesOnlyByItsEvents :=
  fun _ _ h => ⟨busy_cleared_by_step h, busy_set_by_step h⟩

/-- A read of a mapped register answers its value. -/
theorem exec_hrd_of_mapped {s : State} {off : Offset} {r : Reg} (h : s.mapped off = some r) (d : Word) :
    exec (.hrd off d) s = .next (respond (readReg s r) false s) := by
  simp only [exec, execHrd, h]

/-- Settles O37: each slot of the bank is one of the replicas, and STATUS, INFO and CMD are read as mapped registers. -/
theorem resetValues : Obligations.ResetValues := by
  have hbank : ∀ k < 4, State.reset.desc[k]? = some Slot.reset := fun k hk => List.getElem?_replicate_of_lt hk
  have hstatus : State.reset.mapped 0x08 = some .status := by decide
  have hinfo : State.reset.mapped 0x28 = some .info := by decide
  have hcmd : State.reset.mapped 0x00 = some .cmd := by decide
  exact ⟨rfl, rfl, rfl, rfl, hbank, exec_hrd_of_mapped hstatus 0, exec_hrd_of_mapped hinfo 0,
    exec_hrd_of_mapped hcmd 0, rfl, rfl, rfl⟩

/-- Settles O39: the reset state is quiet, so only the bank's size and the error code are left to check. -/
theorem resetIsGood : Obligations.ResetIsGood := by
  constructor
  · decide
  · decide
  · intro hb; cases hb
  · intro _ _; exact ⟨rfl, rfl, rfl, rfl⟩

end Sys2Proof.Machine

/-! PROOF. The host port (spec/20_memory.md R47 to R51, R55, R64): the word of eight byte lanes, the transaction a bus
access stands for, the offsets that answer a BusError, and the step that runs a record. -/

namespace Sys2Proof.Machine

/-! ### Byte lanes -/

/-- Bit `i` of the word of host bytes is bit `i % 8` of byte `i / 8`, the bytes not given being 0. -/
theorem joinLanes_getLsbD (bs : List Byte) {i : Nat} (hi : i < 64) :
    (joinLanes bs).getLsbD i = (bs.getD (i / 8) 0).getLsbD (i % 8) := by
  induction bs generalizing i with
  | nil => simp [joinLanes]
  | cons b rest ih =>
    rw [joinLanes, BitVec.getLsbD_or, BitVec.getLsbD_shiftLeft, BitVec.getLsbD_setWidth]
    by_cases hlow : i < 8
    · simp [hlow, hi, Nat.div_eq_of_lt hlow, Nat.mod_eq_of_lt hlow]
    · have hbyte : i / 8 = (i - 8) / 8 + 1 := by omega
      have hbit : (i - 8) % 8 = i % 8 := by omega
      rw [ih (by omega), BitVec.getLsbD_of_ge b i (by omega), hbyte, List.getD_cons_succ, hbit]
      simp [hi, hlow]

/-- Joining a word's lanes gives the word back (20_memory R51). -/
theorem joinLanes_lanes (w : Word) : joinLanes (lanes w) = w := by
  apply BitVec.eq_of_getLsbD_eq
  intro i hi
  have hlane : (lanes w).getD (i / 8) 0 = laneByte w (i / 8) := by
    simp [lanes, List.getD, show i / 8 < 8 by omega]
  have hpos : 8 * (i / 8) + i % 8 = i := Nat.div_add_mod i 8
  rw [joinLanes_getLsbD _ hi, hlane, laneByte, BitVec.getLsbD_extractLsb', hpos]
  simp [Nat.mod_lt]

@[simp] theorem lanes_length (w : Word) : (lanes w).length = 8 := rfl

/-! ### The window of the register space -/

theorem inWindow_rduBase_add (off : Offset) : inWindow (Config.rduBase + off.toNat) = true := by
  have := off.isLt
  simp only [inWindow, Bool.and_eq_true, decide_eq_true_eq]
  omega

theorem windowOffset_rduBase_add (off : Offset) : windowOffset (Config.rduBase + off.toNat) = off := by
  simp [windowOffset]

/-- Eight bytes in the window are the transaction of their offset (20_memory R51). -/
theorem busEvent_rduBase_add (off : Offset) (f : Offset → Instr) :
    busEvent (Config.rduBase + off.toNat) 8 f = .instr (f off) := by
  simp [busEvent, inWindow_rduBase_add, windowOffset_rduBase_add]

theorem busEvent_of_width_ne {width : Nat} (h : width ≠ 8) (addr : Nat) (f : Offset → Instr) :
    busEvent addr width f = .refuse .notWordAccess := if_pos h

/-- Writing the lanes of `w` in the window is HWR of `w`. -/
theorem eventOf_busWrite_lanes (off : Offset) (w : Word) :
    eventOf (.busWrite (Config.rduBase + off.toNat) (lanes w)) = .instr (.hwr off w) := by
  rw [eventOf, lanes_length, busEvent_rduBase_add, joinLanes_lanes]

/-! ### Steps that take an input -/

/-- Every input but `wait` leaves the queue when it is taken. -/
theorem takeInput_of_ne_wait {x : Input} (h : x ≠ .wait) (rest : List Input) (s : State) :
    takeInput x rest s =
      { s with inputs := rest, hostLeft := if s.busy then s.hostLeft - 1 else s.hostLeft } := by
  simp [takeInput, h]

/-- A step that meets an input the spec gives no meaning. -/
theorem step_of_refuse {s : State} {x : Input} {rest : List Input} {q : Refusal} (he : engineTurn s = false)
    (hin : s.inputs = x :: rest) (hx : eventOf x = .refuse q) : step s = .refused q := by
  simp [step, he, hin, hx]

/-- Settles O7: joining the lanes gives the word back, and the offset is what is left of the address in the window. -/
theorem busAccessIsItsTransaction : Obligations.BusAccessIsItsTransaction := by
  intro s rest off w he
  refine ⟨rfl, fun hin => ?_, fun hin => ?_, fun addr width hne hin => ?_, fun addr bytes hne hin => ?_⟩
  · rw [step_of_instr he hin (eventOf_busWrite_lanes off w), takeInput_of_ne_wait (by simp)]
  · rw [step_of_instr he hin (busEvent_rduBase_add off fun off => .hrd off 0), takeInput_of_ne_wait (by simp)]
  · exact step_of_refuse he hin (busEvent_of_width_ne hne addr fun off => .hrd off 0)
  · exact step_of_refuse he hin (busEvent_of_width_ne hne addr fun off => .hwr off (joinLanes bytes))

/-! ### Offsets that are not mapped -/

theorem exec_hrd_of_unmapped {s : State} {off : Offset} (h : s.mapped off = none) (d : Word) :
    exec (.hrd off d) s = .next (busError s) := by
  simp only [exec, execHrd, h]

/-- The address check comes before the busy check (60_exceptions R122). -/
theorem exec_hwr_of_unmapped {s : State} {off : Offset} (h : s.mapped off = none) (w : Word) :
    exec (.hwr off w) s = .next (busError s) := by
  simp only [exec, execHwr, h]

/-- Settles O10: these are the offsets that are not mapped, and both transactions look the register up first. -/
theorem badOffsetsGetBusError : Obligations.BadOffsetsGetBusError := by
  intro s off d hbad
  have hnone : s.mapped off = none := mapped_eq_none.mpr hbad
  exact ⟨exec_hrd_of_unmapped hnone d, exec_hwr_of_unmapped hnone d⟩

/-! ### Records and the commands they carry -/

/-- A command on a busy unit is a dropped write, whatever its operation (40_host_access R89). -/
theorem exec_command_of_busy {s : State} (hb : s.busy = true) (c : Command) :
    exec c.instr s = .next (dropWrite s) := by
  obtain ⟨op, k⟩ := c
  cases op with
  | rcp => exact congrArg _ (issue_of_busy hb .rcp k (rcpCheck k s))
  | divr => exact congrArg _ (issue_of_busy hb .divr k (useCheck k s))
  | modr => exact congrArg _ (issue_of_busy hb .modr k (useCheck k s))

/-- While BUSY = 1 a write to any register but STATUS is dropped (40_host_access R89). -/
theorem exec_hwr_of_busy {s : State} {off : Offset} {r : Reg} (h : s.mapped off = some r) (hb : s.busy = true)
    (hr : r ≠ .status) (w : Word) : exec (.hwr off w) s = .next (dropWrite s) := by
  simp [exec, execHwr, h, hb, hr]

/-- With BUSY = 0 a write to a register is performed (40_host_access R81). -/
theorem exec_hwr_of_idle {s : State} {off : Offset} {r : Reg} (h : s.mapped off = some r) (hb : s.busy = false)
    (w : Word) : exec (.hwr off w) s = writeReg r w s := by
  simp [exec, execHwr, h, hb]

theorem mapped_cmd (s : State) : s.mapped 0x00 = some .cmd := mapped_eq_some.mpr ⟨rfl, rfl⟩

/-- Writing a legal word to CMD runs its command, on a busy unit too (40_host_access R88, R89). -/
theorem exec_hwr_cmd_of_decode {w : Word} {c : Command} (h : decodeCommand w = .ok c) (s : State) :
    exec (.hwr 0x00 w) s = exec c.instr s := by
  cases hb : s.busy with
  | true => rw [exec_command_of_busy hb, exec_hwr_of_busy (mapped_cmd s) hb (by decide)]
  | false => rw [exec_hwr_of_idle (mapped_cmd s) hb, writeReg, writeCmd_of_decode h]

/-- Settles O5: the record is decoded and run, and one that writes a legal word to CMD runs that word's command. -/
theorem stepRunsTheDecodedRecord : Obligations.StepRunsTheDecodedRecord := by
  intro s r rest he hin t
  have hstep : step s = exec (decodeRecord r) t := by
    rw [step_of_instr he hin rfl, takeInput_of_ne_wait (by simp)]
  refine ⟨hstep, fun c hc => ?_⟩
  rw [hstep, hc, exec_hwr_cmd_of_decode (decodeCommand_encodeCommand c)]

end Sys2Proof.Machine

/-! PROOF. Encoding (spec/30_encoding.md R65 to R74): the two round trips, the legal command words by mask and by
count, the words CMD rejects for a reserved bit, and the step that runs an offered table word. -/

namespace Sys2Proof.Machine

/-! ### Round trips -/

theorem encode_instr (c : Command) : encode c.instr = .command (encodeCommand c) := by
  obtain ⟨op, k⟩ := c
  cases op <;> rfl

theorem decode_command_of_ok {w : Word} {c : Command} (h : decodeCommand w = .ok c) :
    decode (.command w) = .ok c.instr := by
  rw [decode, h]; rfl

/-- The decoder's words are exactly the encoder's. -/
theorem decodeCommand_eq_ok {w : Word} {c : Command} : decodeCommand w = .ok c ↔ encodeCommand c = w := by
  constructor
  · exact encodeCommand_of_decodeCommand
  · rintro rfl; exact decodeCommand_encodeCommand c

theorem decode_command_eq_ok {w : Word} {i : Instr} :
    decode (.command w) = .ok i ↔ ∃ c, decodeCommand w = .ok c ∧ i = c.instr := by
  constructor
  · intro h
    cases hc : decodeCommand w with
    | error e => rw [decode, hc] at h; cases h
    | ok c => rw [decode_command_of_ok hc] at h; exact ⟨c, rfl, (Except.ok.inj h).symm⟩
  · rintro ⟨c, hc, rfl⟩; exact decode_command_of_ok hc

theorem encode_decodeRecord (r : Record) : encode (decodeRecord r) = .record r := by
  have hfields := encodeRecord_fields r
  unfold decodeRecord
  split
  next hw => rw [encode, ← hw, hfields]
  next hw => rw [encode, ← Bool.eq_false_iff.mpr hw, hfields]

theorem decode_encode (i : Instr) : decode (encode i) = .ok i := by
  cases i with
  | rcp k => exact decode_command_of_ok (decodeCommand_encodeCommand ⟨.rcp, k⟩)
  | divr k => exact decode_command_of_ok (decodeCommand_encodeCommand ⟨.divr, k⟩)
  | modr k => exact decode_command_of_ok (decodeCommand_encodeCommand ⟨.modr, k⟩)
  | hrd off d => exact congrArg _ (decodeRecord_encodeRecord false off d)
  | hwr off d => exact congrArg _ (decodeRecord_encodeRecord true off d)

theorem encode_of_decode {e : Encoded} {i : Instr} (h : decode e = .ok i) : encode i = e := by
  cases e with
  | command w =>
    obtain ⟨c, hc, rfl⟩ := decode_command_eq_ok.mp h
    rw [encode_instr, encodeCommand_of_decodeCommand hc]
  | record r => rw [← Except.ok.inj h, encode_decodeRecord]

/-- Settles O2: one round trip by the constructors of an instruction, the other by the two encoded forms. -/
theorem decodeAndEncodeAgree : Obligations.DecodeAndEncodeAgree :=
  ⟨decode_encode, fun _ _ => encode_of_decode, fun r => ⟨decodeRecord r, rfl⟩⟩

/-- Settles O1: nine closed words. -/
theorem specWordsDecode : Obligations.SpecWordsDecode := by
  refine ⟨?_, ?_, ?_, ?_, ?_, ?_, ?_, ?_, ?_⟩ <;> decide

/-! ### The legal words by mask -/

/-- A field that a mask keeps whole is the field of the masked word. -/
theorem extractLsb'_of_and_eq {w m v : Word} {start len : Nat} (h : w &&& m = v)
    (hm : m.extractLsb' start len = BitVec.allOnes len) : w.extractLsb' start len = v.extractLsb' start len := by
  rw [← h, BitVec.extractLsb'_and, hm, BitVec.and_allOnes]

/-- The mask of 30_encoding R67 leaves a command word its OP alone. -/
theorem encodeCommand_and_mask (c : Command) :
    encodeCommand c &&& 0xFFFFFFFFFFFFF0FF = encodeCommand ⟨c.op, 0⟩ := by
  obtain ⟨op, k⟩ := c
  cases op <;> revert k <;> decide

theorem encodeCommand_slot (c : Command) : (encodeCommand c).extractLsb' 8 4 = c.slot := by
  obtain ⟨op, k⟩ := c
  cases op <;> revert k <;> decide

/-- A word whose masked value is an operation's match value is that operation's command word, SLOT as in the word. -/
theorem encodeCommand_of_mask {w : Word} {op : CmdOp}
    (h : w &&& 0xFFFFFFFFFFFFF0FF = encodeCommand ⟨op, 0⟩) : encodeCommand ⟨op, w.extractLsb' 8 4⟩ = w := by
  have hhigh : w.extractLsb' 12 52 = 0#52 :=
    (extractLsb'_of_and_eq h (by decide)).trans (by cases op <;> decide)
  have hmid : w.extractLsb' 4 4 = 0#4 := (extractLsb'_of_and_eq h (by decide)).trans (by cases op <;> decide)
  have hop : w.extractLsb' 0 4 = op.field := (extractLsb'_of_and_eq h (by decide)).trans (by cases op <;> decide)
  have hw := commandFields w
  rwa [hhigh, hmid, hop] at hw

theorem decodeCommand_eq_ok_iff_mask {w : Word} {c : Command} :
    decodeCommand w = .ok c ↔
      w &&& 0xFFFFFFFFFFFFF0FF = encodeCommand ⟨c.op, 0⟩ ∧ c.slot = w.extractLsb' 8 4 := by
  rw [decodeCommand_eq_ok]
  constructor
  · rintro rfl; exact ⟨encodeCommand_and_mask c, (encodeCommand_slot c).symm⟩
  · obtain ⟨op, k⟩ := c
    rintro ⟨hmask, hslot : k = _⟩
    rw [hslot]; exact encodeCommand_of_mask hmask

/-- Settles O3: the match values are the command words with SLOT = 0, and SLOT is read as a number. -/
theorem legalWordsAreTheMaskRows : Obligations.LegalWordsAreTheMaskRows := by
  intro w c
  have hslot : c.slot = w.extractLsb' 8 4 ↔ c.slot.toNat = w.toNat / 2 ^ 8 % 2 ^ 4 := by
    rw [← BitVec.toNat_inj, BitVec.extractLsb'_toNat, Nat.shiftRight_eq_div_pow]
  obtain ⟨op, k⟩ := c
  rw [decodeCommand_eq_ok_iff_mask, hslot]
  cases op with
  | rcp => rw [show encodeCommand ⟨.rcp, 0⟩ = 1 by decide]
  | divr => rw [show encodeCommand ⟨.divr, 0⟩ = 2 by decide]
  | modr => rw [show encodeCommand ⟨.modr, 0⟩ = 3 by decide]

/-! ### The legal words by count -/

/-- The slots `0` to `n - 1`. -/
def slotsBelow (n : Nat) : List SlotIndex := (List.range n).map (BitVec.ofNat 4)

theorem mem_slotsBelow {n : Nat} (hn : n ≤ 16) {k : SlotIndex} : k ∈ slotsBelow n ↔ k.toNat < n := by
  simp only [slotsBelow, List.mem_map, List.mem_range]
  constructor
  · rintro ⟨m, hm, rfl⟩
    rwa [BitVec.toNat_ofNat, Nat.mod_eq_of_lt (by omega)]
  · exact fun h => ⟨k.toNat, h, BitVec.ofNat_toNat ..⟩

theorem nodup_slotsBelow {n : Nat} (hn : n ≤ 16) : (slotsBelow n).Nodup := by
  refine List.Nodup.map_on ?_ List.nodup_range
  intro i hi j hj hij
  simp only [List.mem_range] at hi hj
  have h := congrArg BitVec.toNat hij
  rwa [BitVec.toNat_ofNat, BitVec.toNat_ofNat, Nat.mod_eq_of_lt (by omega), Nat.mod_eq_of_lt (by omega)] at h

/-- The command words of every operation on the slots below `n`. -/
def commandWords (n : Nat) : List Word :=
  ([CmdOp.rcp, .divr, .modr] ×ˢ slotsBelow n).map fun p => encodeCommand ⟨p.1, p.2⟩

theorem encodeCommand_injective : Function.Injective encodeCommand := fun c d h => by
  have hd := decodeCommand_encodeCommand d
  rw [← h, decodeCommand_encodeCommand c] at hd
  exact Except.ok.inj hd

theorem length_commandWords (n : Nat) : (commandWords n).length = 3 * n := by
  rw [commandWords, List.length_map, List.length_product, slotsBelow, List.length_map, List.length_range]
  rfl

theorem nodup_commandWords {n : Nat} (hn : n ≤ 16) : (commandWords n).Nodup := by
  refine List.Nodup.map ?_ (List.Nodup.product (by decide) (nodup_slotsBelow hn))
  rintro ⟨op, k⟩ ⟨op', k'⟩ h
  cases encodeCommand_injective h
  rfl

theorem mem_commandWords {n : Nat} (hn : n ≤ 16) {w : Word} :
    w ∈ commandWords n ↔ ∃ c, decodeCommand w = .ok c ∧ c.slot.toNat < n := by
  simp only [commandWords, List.mem_map, List.mem_product, Prod.exists, mem_slotsBelow hn, decodeCommand_eq_ok]
  constructor
  · rintro ⟨op, k, ⟨-, hk⟩, rfl⟩; exact ⟨⟨op, k⟩, rfl, hk⟩
  · rintro ⟨⟨op, k⟩, rfl, hk⟩; exact ⟨op, k, ⟨by cases op <;> decide, hk⟩, rfl⟩

/-- Settles O4: the words on the slots below n, and for the 48 every value of SLOT, which is below 16. -/
theorem fortyEightLegalCommandWords : Obligations.FortyEightLegalCommandWords := by
  constructor
  · refine ⟨commandWords 16, nodup_commandWords le_rfl, length_commandWords 16, fun w => ?_⟩
    rw [mem_commandWords le_rfl]
    exact exists_congr fun c => and_iff_left c.slot.isLt
  · intro n hn
    have hn : n ≤ 16 := by omega
    exact ⟨commandWords n, nodup_commandWords hn, length_commandWords n, fun w => mem_commandWords hn⟩

/-! ### Words written to CMD -/

/-- Settles O8: its encoded word decodes to the command. -/
theorem commandIsItsCmdWrite : Obligations.CommandIsItsCmdWrite := fun c s =>
  (exec_hwr_cmd_of_decode (decodeCommand_encodeCommand c) s).symm

/-- Bits [7:4] and [63:12] are all that the mask of the reserved bits keeps. -/
theorem and_reserved_eq_zero {w : Word} (hmid : w.extractLsb' 4 4 = 0) (hhigh : w.extractLsb' 12 52 = 0) :
    w &&& 0xFFFFFFFFFFFFF0F0 = 0 := by
  have hmask : ∀ k op : BitVec 4, (0#52 ++ k ++ 0#4 ++ op : BitVec 64) &&& 0xFFFFFFFFFFFFF0F0 = 0 := by decide
  have hw := commandFields w
  rw [hmid, hhigh] at hw
  rw [← hw]
  exact hmask _ _

theorem decodeCommand_of_reserved {w : Word} (h : w &&& 0xFFFFFFFFFFFFF0F0 ≠ 0) :
    decodeCommand w = .error .reservedBits := by
  refine if_pos (not_and_or.mp fun ⟨hmid, hhigh⟩ => ?_)
  exact h (and_reserved_eq_zero hmid hhigh)

/-- With BUSY = 0 an illegal word written to CMD is rejected (40_host_access R91, R93). -/
theorem exec_hwr_cmd_of_illegal {s : State} {w : Word} {e : DecodeError} (hb : s.busy = false)
    (h : decodeCommand w = .error e) : exec (.hwr 0x00 w) s = .next (respondOk (reject .illegalCmd s)) := by
  rw [exec_hwr_of_idle (mapped_cmd s) hb, writeReg, writeCmd, h]

/-- Settles O19: the reserved bits are tested before OP, and no other check is reached. -/
theorem reservedBitsAreIllegal : Obligations.ReservedBitsAreIllegal := fun _ _ hb hw =>
  exec_hwr_cmd_of_illegal hb (decodeCommand_of_reserved hw)

/-! ### Offered table words -/

/-- An offered record is a host event that comes before the pending completion, if there is one. -/
theorem engineTurn_offerRecord (r : Record) (s : State) : engineTurn (offerRecord r s) = false := by
  cases hb : s.busy <;> simp [engineTurn, hb]

/-- Taking the offered record leaves the state it was offered in. -/
theorem takeInput_offerRecord (r : Record) (s : State) :
    takeInput (.record r) s.inputs (offerRecord r s) = s := by
  have hleft : (takeInput (.record r) s.inputs (offerRecord r s)).hostLeft = s.hostLeft := by
    cases hb : s.busy <;> simp [hb]
  exact (takeInput_of_ne_wait (by simp) ..).trans (congrArg (fun n => { s with hostLeft := n }) hleft)

theorem step_offerRecord (r : Record) (s : State) : step (offerRecord r s) = exec (decodeRecord r) s := by
  rw [step_of_instr (engineTurn_offerRecord r s) (offerRecord_inputs r s) rfl, takeInput_offerRecord]

theorem eq_ok_of_toOption {ε α : Type} {x : Except ε α} {a : α} (h : x.toOption = some a) : x = .ok a := by
  cases x with
  | error e => cases h
  | ok b => exact congrArg _ (Option.some.inj h)

/-- The record that issues a table word runs the word's instruction. -/
theorem exec_tableRecord {nbits w : Nat} {i : Instr} (h : decodeTableWord nbits w = some i) (s : State) :
    exec (decodeRecord (tableRecord nbits w)) s = exec i s := by
  unfold decodeTableWord at h
  split_ifs at h with hcommand hrange hrange
  · obtain ⟨c, hc, rfl⟩ := decode_command_eq_ok.mp (eq_ok_of_toOption h)
    rw [tableRecord, if_pos hcommand, decodeRecord_encodeRecord]
    exact exec_hwr_cmd_of_decode hc s
  · rw [tableRecord, if_neg hcommand, Option.some.inj h]

/-- Settles O6: the next step takes the offered record, which runs the word's instruction. -/
theorem offeredTableWordRunsNext : Obligations.OfferedTableWordRunsNext := by
  intro s nbits w i h
  rw [State.withFetchWord, step_offerRecord, exec_tableRecord h]

end Sys2Proof.Machine

/-! PROOF. Reciprocal division by the descriptor built from the divisor is exact (spec/41_magic_multiplier_compute.md
R98 to R100, spec/42_divide_by_reciprocal.md R106, R107, spec/43_modulo_by_reciprocal.md R112, R113). -/

namespace Sys2Proof.Machine

/-! ### The bit length of d - 1 -/

theorem toNat_pos_of_ne_zero {d : Word} (hd : d ≠ 0) : 0 < d.toNat :=
  Nat.pos_of_ne_zero fun h => hd (BitVec.eq_of_toNat_eq h)

theorem toNat_sub_one {d : Word} (hd : d ≠ 0) : (d - 1).toNat = d.toNat - 1 :=
  BitVec.toNat_sub_of_le (BitVec.le_def.mpr (toNat_pos_of_ne_zero hd))

theorem le_two_pow_fls64_sub_one {d : Word} (hd : d ≠ 0) : d.toNat ≤ 2 ^ fls64 (d - 1) := by
  have h := toNat_lt_two_pow_fls64 (d - 1)
  rw [toNat_sub_one hd] at h
  omega

theorem sub_one_ne_zero {d : Word} (h1 : d ≠ 1) : d - 1 ≠ 0 := fun h => h1 (sub_eq_zero.mp h)

/-- Half the power of two at or above a divisor greater than 1 is below the divisor (41 R98). -/
theorem two_pow_fls64_le {d : Word} (hd : d ≠ 0) (h1 : d ≠ 1) : 2 ^ fls64 (d - 1) + 2 ≤ 2 * d.toNat := by
  have hpos := toNat_pos_of_ne_zero hd
  have hhalf := two_pow_fls64_sub_one_le (sub_one_ne_zero h1)
  have hdouble := Nat.pow_pred_mul (x := 2) (fls64_pos (sub_one_ne_zero h1))
  rw [toNat_sub_one hd] at hhalf
  omega

/-! ### The descriptor of a divisor -/

/-- The multiplier before it is narrowed is `2^(64+l) / d` rounded up, less `2^64` (41 R99). -/
theorem multiplier_add {d l : Nat} (hd : 0 < d) (hl : d ≤ 2 ^ l) :
    2 ^ 64 * (2 ^ l - d) / d + 1 + 2 ^ 64 = 2 ^ (64 + l) / d + 1 := by
  have hle : 2 ^ 64 ≤ 2 ^ (64 + l) / d := by
    rw [Nat.le_div_iff_mul_le hd, pow_add]
    exact Nat.mul_le_mul_left _ hl
  have hsub : 2 ^ 64 * (2 ^ l - d) / d = 2 ^ (64 + l) / d - 2 ^ 64 := by
    rw [Nat.mul_sub, ← pow_add, Nat.mul_comm (2 ^ 64) d, Nat.sub_mul_div]
  omega

/-- The multiplier fits its 64 bits (41 R99). -/
theorem multiplier_lt {d : Word} (hd : d ≠ 0) :
    2 ^ 64 * (2 ^ fls64 (d - 1) - d.toNat) / d.toNat + 1 < 2 ^ 64 := by
  by_cases h1 : d = 1
  · subst h1; decide
  · have hlt := d.isLt
    have hpos := toNat_pos_of_ne_zero hd
    have hpow := two_pow_fls64_le hd h1
    have hq : 2 ^ 64 * (2 ^ fls64 (d - 1) - d.toNat) / d.toNat < 2 ^ 64 - 1 :=
      Nat.div_lt_of_lt_mul (by omega)
    omega

/-- computeReciprocal in exact naturals, for the divisors it is defined for (41 R99, R100). -/
theorem computeReciprocal_spec {d : Word} {r : Descriptor} (h : computeReciprocal d = some r) :
    d ≠ 0 ∧ r.m.toNat + 2 ^ 64 = 2 ^ (64 + fls64 (d - 1)) / d.toNat + 1 ∧
    r.sh1.toNat = min (fls64 (d - 1)) 1 ∧ r.sh2.toNat = fls64 (d - 1) - 1 := by
  have hd : d ≠ 0 := by rintro rfl; simp [computeReciprocal] at h
  have hl := fls64_le (d - 1)
  rw [computeReciprocal, if_neg hd] at h
  obtain rfl := Option.some.inj h
  refine ⟨hd, ?_, ?_, ?_⟩
  · rw [BitVec.toNat_ofNat, Nat.mod_eq_of_lt (multiplier_lt hd)]
    exact multiplier_add (toNat_pos_of_ne_zero hd) (le_two_pow_fls64_sub_one hd)
  · rw [BitVec.toNat_ofNat, Nat.mod_eq_of_lt (by omega)]
  · rw [BitVec.toNat_ofNat, Nat.mod_eq_of_lt (by omega)]

/-! ### The divide -/

/-- reciprocalDivide in exact naturals: nothing wraps, whatever the descriptor (42 R104, R107). -/
theorem reciprocalDivide_toNat (a : Word) (r : Descriptor) :
    (reciprocalDivide a r).toNat =
      ((mulhi64 a r.m).toNat + (a.toNat - (mulhi64 a r.m).toNat) / 2 ^ r.sh1.toNat) / 2 ^ r.sh2.toNat := by
  have ha := a.isLt
  have ht := mulhi64_le a r.m
  have hu : (a.toNat - (mulhi64 a r.m).toNat) / 2 ^ r.sh1.toNat ≤ a.toNat - (mulhi64 a r.m).toNat :=
    Nat.div_le_self _ _
  rw [reciprocalDivide, BitVec.toNat_ushiftRight, Nat.shiftRight_eq_div_pow, BitVec.toNat_add,
    BitVec.toNat_ushiftRight, Nat.shiftRight_eq_div_pow, BitVec.toNat_sub_of_le (BitVec.le_def.mpr ht),
    Nat.mod_eq_of_lt (by omega)]

/-- The two shifts together divide the dividend plus the high half by `2^l`; for `l = 0` neither shifts, and the high
half is 0. -/
theorem shifted_sum_eq {a t l : Nat} (hta : t ≤ a) (ht : l = 0 → t = 0) :
    (t + (a - t) / 2 ^ min l 1) / 2 ^ (l - 1) = (a + t) / 2 ^ l := by
  cases l with
  | zero => simp [ht rfl]
  | succ l =>
    have hmean : t + (a - t) / 2 = (a + t) / 2 := by omega
    rw [Nat.min_eq_right (by omega), pow_one, hmean, Nat.add_sub_cancel, Nat.div_div_eq_div_mul, ← pow_succ']

/-- The exactness guarantee of the divide (42 R106). -/
theorem reciprocalDivide_eq_div {d : Word} {r : Descriptor} (h : computeReciprocal d = some r) (a : Word) :
    (reciprocalDivide a r).toNat = a.toNat / d.toNat := by
  obtain ⟨hd, hm, hsh1, hsh2⟩ := computeReciprocal_spec h
  have hpos := toNat_pos_of_ne_zero hd
  have hlt := d.isLt
  have hl := le_two_pow_fls64_sub_one hd
  have hzero : fls64 (d - 1) = 0 → (mulhi64 a r.m).toNat = 0 := by
    intro h0
    rw [h0] at hm hl
    have h1 : d.toNat = 1 := by omega
    have hm1 : r.m.toNat = 1 := by rw [h1] at hm; omega
    rw [mulhi64_toNat, hm1, Nat.mul_one, Nat.div_eq_of_lt a.isLt]
  rw [reciprocalDivide_toNat, hsh1, hsh2, shifted_sum_eq (mulhi64_le a r.m) hzero, mulhi64_toNat]
  calc (a.toNat + a.toNat * r.m.toNat / 2 ^ 64) / 2 ^ fls64 (d - 1)
      = (r.m.toNat * a.toNat + 2 ^ 64 * a.toNat) / 2 ^ 64 / 2 ^ fls64 (d - 1) := by
        rw [Nat.add_mul_div_left _ _ (by decide), Nat.add_comm, Nat.mul_comm r.m.toNat]
    _ = (r.m.toNat * a.toNat + 2 ^ 64 * a.toNat) / 2 ^ (64 + fls64 (d - 1)) := by
        rw [Nat.div_div_eq_div_mul, ← pow_add]
    _ = a.toNat / d.toNat := roundedReciprocal_div a.isLt hpos hl hm

/-! ### The remainder -/

/-- With the divisor's own descriptor the subtraction does not wrap (43 R113). -/
theorem remainderRaw_eq_mod {d : Word} {r : Descriptor} (h : computeReciprocal d = some r) (a : Word) :
    (remainderRaw a d r).toNat = a.toNat % d.toNat := by
  have hq := reciprocalDivide_eq_div h a
  have hle : a.toNat / d.toNat * d.toNat ≤ a.toNat := Nat.div_mul_le_self _ _
  have hmul : (reciprocalDivide a r * d).toNat = a.toNat / d.toNat * d.toNat := by
    rw [BitVec.toNat_mul, hq, Nat.mod_eq_of_lt (hle.trans_lt a.isLt)]
  rw [remainderRaw, BitVec.toNat_sub_of_le (BitVec.le_def.mpr (hmul ▸ hle)), hmul, Nat.mul_comm,
    ← Nat.mod_eq_sub_mul_div]

/-- The exactness guarantee of the remainder: the correction's test is false (43 R112, R113). -/
theorem reciprocalRemainder_eq_mod {d : Word} {r : Descriptor} (h : computeReciprocal d = some r) (a : Word) :
    (reciprocalRemainder a d r).toNat = a.toNat % d.toNat := by
  have hraw := remainderRaw_eq_mod h a
  have hlt : a.toNat % d.toNat < d.toNat := Nat.mod_lt _ (toNat_pos_of_ne_zero (computeReciprocal_spec h).1)
  have hsmall : ¬ d ≤ remainderRaw a d r := by rw [BitVec.le_def, hraw]; exact Nat.not_le.mpr hlt
  rw [reciprocalRemainder, if_neg hsmall, hraw]

end Sys2Proof.Machine

/-! PROOF. Progress (spec/30_encoding.md R77, R78, spec/40_host_access.md R92, R94): a pending command completes
whatever the host's `wait` loop has read before, so `wait`, and the pseudo-instructions built on it, end. -/

namespace Sys2Proof.Machine

/-! ### The STATUS word -/

theorem statusWord_busy (s : State) : (statusWord s).getLsbD 0 = s.busy := by
  simp only [statusWord, BitVec.getLsbD_setWidth, BitVec.getLsbD_append]
  simp

theorem statusWord_err (s : State) : (statusWord s).extractLsb' 4 4 = s.err := by
  apply BitVec.eq_of_getLsbD_eq
  intro i hi
  simp only [statusWord, BitVec.getLsbD_extractLsb', BitVec.getLsbD_setWidth, BitVec.getLsbD_append]
  simp [hi, show 4 + i < 64 by omega, show ¬ 2 + i ≤ 1 by omega]

/-! ### The completion -/

/-- A pending command that passed its accept checks completes (40_host_access R92). -/
theorem complete_of_pendingAccepted {s : State} (h : pendingAccepted s) : ∃ u, complete s = .next u := by
  obtain ⟨hk, ⟨hop, hd⟩ | ⟨hop | hop, -⟩⟩ := h
  · obtain ⟨r, hr⟩ := computeReciprocal_ne_zero hd
    exact ⟨_, (complete_eq (op := .rcp) hop hk).trans (completeRcp_eq hr)⟩
  · exact ⟨_, complete_eq (op := .divr) hop hk⟩
  · exact ⟨_, complete_eq (op := .modr) hop hk⟩

theorem complete_busy {s u : State} (h : complete s = .next u) : u.busy = false := by
  obtain ⟨-, ⟨-, r, -, rfl⟩ | ⟨-, rfl⟩ | ⟨-, rfl⟩⟩ := complete_cases h <;> rfl

theorem complete_inputs {s u : State} (h : complete s = .next u) : u.inputs = s.inputs := by
  obtain ⟨-, ⟨-, r, -, rfl⟩ | ⟨-, rfl⟩ | ⟨-, rfl⟩⟩ := complete_cases h <;> rfl

/-- A completion reads nothing of the host's side and leaves the response and the host's events as they are. -/
theorem complete_of_hostSide {s u : State} (h : complete s = .next u) (v : Option Response) (xs : List Input)
    (n : Nat) :
    complete { s with resp := v, inputs := xs, hostLeft := n } = .next { u with resp := v, inputs := xs } := by
  obtain ⟨hk, hcases⟩ := complete_cases h
  have hcomplete {op : CmdOp} (hop : s.pendOp = pendCode op) :=
    complete_eq (s := { s with resp := v, inputs := xs, hostLeft := n }) hop hk
  obtain ⟨hop, r, hr, rfl⟩ | ⟨hop, rfl⟩ | ⟨hop, rfl⟩ := hcases
  · exact (hcomplete (op := .rcp) hop).trans (completeRcp_eq hr)
  · exact hcomplete (op := .divr) hop
  · exact hcomplete (op := .modr) hop

/-! ### Steps of an idle unit, and of the wait loop -/

/-- The state with the host's events to come replaced. -/
def withInputs (xs : List Input) (s : State) : State := { s with inputs := xs }

theorem takeInput_of_idle {s : State} (hb : s.busy = false) (x : Input) (rest : List Input) :
    takeInput x rest s = withInputs rest s := by
  simp [takeInput, withInputs, hb]

/-- An idle unit runs the transaction its next input asks for. -/
theorem step_of_idle {s : State} {x : Input} {rest : List Input} {i : Instr} (hb : s.busy = false)
    (hin : s.inputs = x :: rest) (hx : eventOf x = .instr i) : step s = exec i (withInputs rest s) := by
  rw [step_of_instr (engineTurn_of_idle hb) hin hx, takeInput_of_idle hb]

theorem mapped_offset {s : State} {r : Reg} (h : regPresent s.ndesc r = true) : s.mapped r.offset = some r :=
  mapped_eq_some.mpr ⟨rfl, h⟩

/-- With BUSY = 0 the wait loop's read is its last. -/
theorem step_wait_of_idle {s : State} {rest : List Input} (hb : s.busy = false) (hin : s.inputs = .wait :: rest) :
    step s = .next (respond (statusWord s) false (withInputs rest s)) := by
  rw [step_of_idle hb hin rfl, exec_hrd_of_mapped (mapped_offset rfl)]
  rfl

/-- While host events are left before the completion, the wait loop reads STATUS and goes round. -/
theorem step_wait_of_busy {s : State} {rest : List Input} {n : Nat} (hb : s.busy = true)
    (hleft : s.hostLeft = n + 1) (hin : s.inputs = .wait :: rest) :
    step s = .next (respond (statusWord s) false { s with inputs := .wait :: rest, hostLeft := n }) := by
  have hturn : engineTurn s = false := by simp [engineTurn, hleft, hin]
  have htake : takeInput .wait rest s = { s with inputs := .wait :: rest, hostLeft := n } := by
    simp [takeInput, hb, hleft]
  rw [step_of_instr hturn hin rfl, htake, exec_hrd_of_mapped (mapped_offset rfl)]
  rfl

/-- The wait loop ends in the completion's state with STATUS answered, however many reads it took before. -/
theorem steps_wait_of_pending {s u : State} {rest : List Input} (hb : s.busy = true)
    (hin : s.inputs = .wait :: rest) (hc : complete s = .next u) :
    ∃ n, steps n s = .next (respond (statusWord u) false (withInputs rest u)) := by
  induction hleft : s.hostLeft generalizing s u with
  | zero =>
    have hengine : step s = .next u := by
      rw [step_of_engineTurn (engineTurn_eq_true.mpr ⟨hb, .inl hleft⟩), hc]
    have hlast := step_wait_of_idle (complete_busy hc) ((complete_inputs hc).trans hin)
    exact ⟨2, (steps_succ hengine 1).trans (steps_succ hlast 0)⟩
  | succ left ih =>
    obtain ⟨n, hn⟩ := ih (s := respond (statusWord s) false { s with inputs := .wait :: rest, hostLeft := left })
      hb rfl (complete_of_hostSide hc (some ⟨statusWord s, false⟩) (.wait :: rest) left) rfl
    exact ⟨n + 1, (steps_succ (step_wait_of_busy hb hleft hin) n).trans hn⟩

/-- Settles O50: with BUSY = 1 the invariant says that the pending command completes. -/
theorem waitEnds : Obligations.WaitEnds := by
  intro s rest hs hin
  cases hb : s.busy with
  | false =>
    have hlast := step_wait_of_idle hb hin
    exact ⟨1, _, statusWord s, steps_succ hlast 0, hb, rfl, step_inv hs hlast, rfl,
      (statusWord_busy s).trans hb, statusWord_err s⟩
  | true =>
    obtain ⟨-, -, hpending⟩ := hs.busy_pending hb
    obtain ⟨u, hc⟩ := complete_of_pendingAccepted hpending
    obtain ⟨n, hn⟩ := steps_wait_of_pending hb hin hc
    have hu := complete_busy hc
    have hinv : (respond (statusWord u) false (withInputs rest u)).Inv :=
      (complete_inv hs hc).congr rfl rfl rfl rfl rfl rfl rfl rfl rfl rfl
    exact ⟨n, _, statusWord u, hn, hu, rfl, hinv, rfl, (statusWord_busy u).trans hu, statusWord_err u⟩

/-! ### The statements of a host script as steps -/

theorem eventOf_wr (r : Reg) (v : Word) : eventOf (wr (.name r) v) = .instr (.hwr r.offset v) :=
  congrArg _ (decodeRecord_encodeRecord true r.offset v)

theorem eventOf_rd (r : Reg) : eventOf (rd (.name r)) = .instr (.hrd r.offset 0) :=
  congrArg _ (decodeRecord_encodeRecord false r.offset 0)

/-- The value `(k << 8) | OP` that `cmd` writes is the command word (30_encoding R66, R76). -/
theorem cmdValue_eq_encodeCommand (op : CmdOp) (k : SlotIndex) :
    (k.setWidth 64 <<< 8) ||| op.field.setWidth 64 = encodeCommand ⟨op, k⟩ := by
  cases op <;> revert k <;> decide

theorem eventOf_cmdWrite (op : CmdOp) (k : SlotIndex) :
    eventOf (cmdWrite op.field k) = .instr (.hwr 0x00 (encodeCommand ⟨op, k⟩)) := by
  rw [cmdWrite, eventOf_wr, cmdValue_eq_encodeCommand]
  rfl

theorem step_wr_of_idle {s : State} {r : Reg} {v : Word} {rest : List Input} (hb : s.busy = false)
    (hin : s.inputs = wr (.name r) v :: rest) (hr : regPresent s.ndesc r = true) :
    step s = writeReg r v (withInputs rest s) := by
  rw [step_of_idle hb hin (eventOf_wr r v)]
  exact exec_hwr_of_idle (s := withInputs rest s) (mapped_offset hr) hb v

theorem step_rd_of_idle {s : State} {r : Reg} {rest : List Input} (hb : s.busy = false)
    (hin : s.inputs = rd (.name r) :: rest) (hr : regPresent s.ndesc r = true) :
    step s = .next (respond (readReg s r) false (withInputs rest s)) := by
  rw [step_of_idle hb hin (eventOf_rd r), exec_hrd_of_mapped (s := withInputs rest s) (mapped_offset hr)]
  cases r <;> rfl

/-- A command whose checks all pass is accepted (40_host_access R91). -/
theorem exec_command_of_checked {s : State} {op : CmdOp} {k : SlotIndex} (hb : s.busy = false)
    (hk : k.toNat < s.ndesc) (hd : op = .rcp → s.opd ≠ 0) (hv : op ≠ .rcp → (s.slotAt k.toNat).valid = true) :
    exec (Command.instr ⟨op, k⟩) s = .next (respondOk (accept op k s)) := by
  rw [← issue_of_ok hb op k]
  cases op with
  | rcp => rw [← rcpCheck_eq_none.mpr ⟨hk, hd rfl⟩]; rfl
  | divr => rw [← useCheck_eq_none.mpr ⟨hk, hv (by decide)⟩]; rfl
  | modr => rw [← useCheck_eq_none.mpr ⟨hk, hv (by decide)⟩]; rfl

/-- An accepted command and the `wait` after it end in the command's completion, with STATUS answered. -/
theorem steps_command_wait {s u : State} {op : CmdOp} {k : SlotIndex} {rest : List Input} (hb : s.busy = false)
    (hin : s.inputs = cmdWrite op.field k :: .wait :: rest) (hk : k.toNat < s.ndesc)
    (hd : op = .rcp → s.opd ≠ 0) (hv : op ≠ .rcp → (s.slotAt k.toNat).valid = true)
    (hc : complete (accept op k s) = .next u) :
    ∃ n, steps n s = .next (respond (statusWord u) false (withInputs rest u)) := by
  have haccept : step s = .next (respondOk (accept op k (withInputs (.wait :: rest) s))) := by
    rw [step_of_idle hb hin (eventOf_cmdWrite op k), exec_hwr_cmd_of_decode (decodeCommand_encodeCommand ⟨op, k⟩)]
    exact exec_command_of_checked hb hk hd hv
  obtain ⟨n, hn⟩ := steps_wait_of_pending rfl rfl
    (complete_of_hostSide hc (some ⟨0, false⟩) (.wait :: rest) (Config.latency s.draws))
  exact ⟨n + 1, (steps_succ haccept n).trans hn⟩

/-- The same with a read of RESULT after the `wait`, which answers what the completion wrote. -/
theorem steps_command_wait_result {s u : State} {op : CmdOp} {k : SlotIndex} {rest : List Input}
    (hb : s.busy = false) (hin : s.inputs = cmdWrite op.field k :: .wait :: rd (.name .result) :: rest)
    (hk : k.toNat < s.ndesc) (hd : op = .rcp → s.opd ≠ 0) (hv : op ≠ .rcp → (s.slotAt k.toNat).valid = true)
    (hc : complete (accept op k s) = .next u) :
    ∃ n, steps n s = .next (respond u.result false (withInputs rest u)) := by
  obtain ⟨n, hn⟩ := steps_command_wait hb hin hk hd hv hc
  have hu : u.busy = false := complete_busy hc
  have hread := step_rd_of_idle (s := respond (statusWord u) false (withInputs (rd (.name .result) :: rest) u))
    (r := .result) hu rfl rfl
  exact ⟨n + 1, (steps_add hn 1).trans (steps_succ hread 0)⟩

/-! ### setd, div and mod -/

/-- After `setd d, k`: slot `k` is valid and holds the descriptor of `d`, OPD is `d` and the unit is idle. -/
structure DivisorSet (d : Word) (k : SlotIndex) (r : Descriptor) (t : State) : Prop where
  idle : t.busy = false
  opd : t.opd = d
  slot_lt : k.toNat < t.ndesc
  slot : t.slotAt k.toNat = ⟨r, true⟩

/-- `setd` runs on every idle unit that has the slot, to the descriptor of the divisor (30_encoding R78, 41 R97). -/
theorem setd_runs {s : State} {d : Word} {k : SlotIndex} {r : Descriptor} {rest : List Input} (hb : s.busy = false)
    (hr : computeReciprocal d = some r) (hk : k.toNat < s.ndesc) (hin : s.inputs = expand (.setd d k) ++ rest) :
    ∃ n t, steps n s = .next t ∧ t.inputs = rest ∧ DivisorSet d k r t := by
  have hd : d ≠ 0 := (computeReciprocal_spec hr).1
  have hwrite := step_wr_of_idle hb hin rfl
  obtain ⟨n, hn⟩ := steps_command_wait (op := .rcp)
    (s := respondOk (writeOpd d (withInputs (cmdWrite 0x1 k :: .wait :: rest) s))) hb rfl hk
    (fun _ => hd) (fun h => absurd rfl h) ((complete_eq (op := .rcp) rfl hk).trans (completeRcp_eq hr))
  exact ⟨n + 1, _, (steps_succ hwrite n).trans hn, rfl, rfl, rfl, (setSlot_ndesc ..).symm ▸ hk,
    setSlot_slotAt_self _ hk⟩

/-- The state with `v` in RESULT. -/
def withResult (v : Word) (s : State) : State := { s with result := v }

/-- The completion of `op` writes `f` of OPA, OPD and the slot's descriptor to RESULT and nothing else. -/
def CompletesWith (op : CmdOp) (f : Word → Word → Descriptor → Word) : Prop :=
  ∀ t : State, t.pendOp = pendCode op → t.pendSlot.toNat < t.ndesc →
    complete t = .next (setCompleted
      (withResult (f t.opa t.opd (t.slotAt t.pendSlot.toNat).toDescriptor) t))

theorem divr_completesWith : CompletesWith .divr fun a _ r => reciprocalDivide a r :=
  fun _ hop hk => complete_eq (op := .divr) hop hk

theorem modr_completesWith : CompletesWith .modr reciprocalRemainder :=
  fun _ hop hk => complete_eq (op := .modr) hop hk

/-- The expansion of `div` or `mod`, on a slot that is set, ends with the operation's value answered. -/
theorem use_runs {s : State} {a d : Word} {k : SlotIndex} {r : Descriptor} {rest : List Input} {op : CmdOp}
    {f : Word → Word → Descriptor → Word} (hop : op ≠ .rcp) (hf : CompletesWith op f) (hs : DivisorSet d k r s)
    (hin : s.inputs = wr (.name .opa) a :: cmdWrite op.field k :: .wait :: rd (.name .result) :: rest) :
    ∃ n t, steps n s = .next t ∧ t.inputs = rest ∧ t.busy = false ∧ t.err = 0 ∧
      t.resp = some ⟨f a d r, false⟩ := by
  obtain ⟨hb, rfl, hk, hslot⟩ := hs
  have hvalid : (s.slotAt k.toNat).valid = true := by rw [hslot]
  have hwrite := step_wr_of_idle hb hin rfl
  obtain ⟨n, hn⟩ := steps_command_wait_result
    (s := respondOk (writeOpa a (withInputs (cmdWrite op.field k :: .wait :: rd (.name .result) :: rest) s)))
    hb rfl hk (fun h => absurd h hop) (fun _ => hvalid) (hf _ rfl hk)
  refine ⟨n + 1, _, (steps_succ hwrite n).trans hn, rfl, rfl, rfl, ?_⟩
  exact congrArg (fun q : Slot => some (Response.mk (f a s.opd q.toDescriptor) false)) hslot

/-- `setd d, k` and then the expansion of `div` or `mod` on slot `k` end with the operation's value answered. -/
theorem setd_then_use_runs {s : State} {d a : Word} {k : SlotIndex} {rest : List Input} {op : CmdOp}
    {f : Word → Word → Descriptor → Word} {r : Descriptor} (hop : op ≠ .rcp) (hf : CompletesWith op f)
    (hb : s.busy = false) (hr : computeReciprocal d = some r) (hk : k.toNat < s.ndesc)
    (hin : s.inputs = expand (.setd d k) ++
      (wr (.name .opa) a :: cmdWrite op.field k :: .wait :: rd (.name .result) :: rest)) :
    ∃ n t, steps n s = .next t ∧ t.inputs = rest ∧ t.busy = false ∧ t.err = 0 ∧
      t.resp = some ⟨f a d r, false⟩ := by
  obtain ⟨m, u, hm, hu, hset⟩ := setd_runs hb hr hk hin
  obtain ⟨n, t, hn, ht⟩ := use_runs hop hf hset hu
  exact ⟨m + n, t, (steps_add hm n).trans hn, ht⟩

/-- Settles O51: DIVR's value on the descriptor of the divisor is the quotient. -/
theorem setdThenDivAnswersTheQuotient : Obligations.SetdThenDivAnswersTheQuotient := by
  intro s d a k rest _ hb hd hk hin
  obtain ⟨r, hr⟩ := computeReciprocal_ne_zero hd
  rw [← reciprocalDivide_eq_div hr a, BitVec.ofNat_toNat, BitVec.setWidth_eq]
  rw [List.append_assoc] at hin
  exact setd_then_use_runs (by decide) divr_completesWith hb hr hk hin

/-- Settles O52: MODR's value on the descriptor of the divisor is the remainder. -/
theorem setdThenModAnswersTheRemainder : Obligations.SetdThenModAnswersTheRemainder := by
  intro s d a k rest _ hb hd hk hin
  obtain ⟨r, hr⟩ := computeReciprocal_ne_zero hd
  rw [← reciprocalRemainder_eq_mod hr a, BitVec.ofNat_toNat, BitVec.setWidth_eq]
  rw [List.append_assoc] at hin
  exact setd_then_use_runs (by decide) modr_completesWith hb hr hk hin

end Sys2Proof.Machine

/-! PROOF. Host access (spec/40_host_access.md): what a read answers (R90), what a write stores (R81 to R87), what a
busy unit drops (R89), a command's checks (R91, R93), and the engine's step (R92). -/

namespace Sys2Proof.Machine

/-! ### The words a read returns, as numbers and as bits -/

theorem append_toNat {m n : Nat} (x : BitVec m) (y : BitVec n) : (x ++ y).toNat = x.toNat * 2 ^ n + y.toNat := by
  rw [BitVec.toNat_append, ← Nat.shiftLeft_add_eq_or_of_lt y.isLt, Nat.shiftLeft_eq]

theorem statusWord_toNat (s : State) :
    (statusWord s).toNat = s.overrun.toNat * 2 ^ 9 + s.errSticky.toNat * 2 ^ 8 + s.err.toNat * 2 ^ 4
      + s.done.toNat * 2 + s.busy.toNat := by
  rw [statusWord, BitVec.toNat_setWidth_of_le (by decide)]
  simp only [append_toNat, BitVec.toNat_ofBool, BitVec.toNat_ofNat]
  omega

theorem infoWord_toNat {n : Nat} (hn : n < 256) : (infoWord n).toNat = 0x100 + n := by
  rw [infoWord, BitVec.toNat_setWidth_of_le (by decide), append_toNat, BitVec.toNat_ofNat, Nat.mod_eq_of_lt hn]
  rfl

theorem descShWord_toNat (q : Slot) :
    (descShWord q).toNat = q.valid.toNat * 2 ^ 16 + q.sh2.toNat * 2 ^ 8 + q.sh1.toNat := by
  rw [descShWord, BitVec.toNat_setWidth_of_le (by decide)]
  simp only [append_toNat, BitVec.toNat_ofBool, BitVec.toNat_ofNat]
  omega

/-- The bits of DESC_SH that a slot's fields fill; every other bit is 0 (40_host_access R85). -/
theorem descShWord_getLsbD (q : Slot) (i : Nat) :
    (descShWord q).getLsbD i =
      if i = 0 then q.sh1.getLsbD 0
      else if 8 ≤ i ∧ i < 14 then q.sh2.getLsbD (i - 8)
      else decide (i = 16) && q.valid := by
  simp only [descShWord, BitVec.getLsbD_setWidth, BitVec.getLsbD_append]
  grind

theorem descShWord_sh1 (q : Slot) : (descShWord q).extractLsb' 0 1 = q.sh1 := by
  apply BitVec.eq_of_getLsbD_eq
  intro i hi
  obtain rfl : i = 0 := by omega
  rw [BitVec.getLsbD_extractLsb', descShWord_getLsbD]
  rfl

theorem descShWord_sh2 (q : Slot) : (descShWord q).extractLsb' 8 6 = q.sh2 := by
  apply BitVec.eq_of_getLsbD_eq
  intro i hi
  have hfield : 8 + i < 14 := by omega
  simp [descShWord_getLsbD, hi, hfield]

theorem descShWord_valid (q : Slot) : (descShWord q).getLsbD 16 = q.valid := by
  rw [descShWord_getLsbD]
  rfl

/-- The slot a write of `v` to DESC_SH leaves where `q` was: M is kept (40_host_access R85). -/
def storeSh (v : Word) (q : Slot) : Slot :=
  { q with sh1 := v.extractLsb' 0 1, sh2 := v.extractLsb' 8 6, valid := v.getLsbD 16 }

/-- Read back, the stored fields are the data's bits under the mask of the fields. -/
theorem descShWord_storeSh (v : Word) (q : Slot) : descShWord (storeSh v q) = v &&& 0x13F01 := by
  have hmask : ∀ i < 64, (0x13F01 : Word).getLsbD i = decide (i = 0 ∨ (8 ≤ i ∧ i < 14) ∨ i = 16) := by decide
  apply BitVec.eq_of_getLsbD_eq
  intro i hi
  rw [descShWord_getLsbD, BitVec.getLsbD_and, hmask i hi]
  by_cases h0 : i = 0
  · simp [h0, storeSh]
  · by_cases hsh2 : 8 ≤ i ∧ i < 14
    · have hin : i - 8 < 6 := by omega
      simp [h0, hsh2, hin, storeSh]
    · by_cases h16 : i = 16
      · simp [h16, storeSh]
      · simp [h0, hsh2, h16]

/-- Saving DESC_SH and writing it back gives the slot's fields, whatever stood there but M. -/
theorem storeSh_descShWord (q p : Slot) : storeSh (descShWord q) { p with m := q.m } = q := by
  rw [storeSh, descShWord_sh1, descShWord_sh2, descShWord_valid]

/-! ### The mapped registers -/

theorem mapped_descM {s : State} {k : Nat} (hk : k < 12) (hslot : k < s.ndesc) :
    s.mapped (BitVec.ofNat 8 (0x40 + 16 * k)) = some (.descM ⟨k, hk⟩) :=
  mapped_offset (r := .descM ⟨k, hk⟩) (decide_eq_true hslot)

theorem mapped_descSh {s : State} {k : Nat} (hk : k < 12) (hslot : k < s.ndesc) :
    s.mapped (BitVec.ofNat 8 (0x48 + 16 * k)) = some (.descSh ⟨k, hk⟩) :=
  mapped_offset (r := .descSh ⟨k, hk⟩) (decide_eq_true hslot)

/-- An aligned offset below the end of the bank and outside the holes has a register (20_memory R48). -/
theorem exists_mapped {s : State} {off : Offset} (haligned : off.toNat % 8 = 0) (h30 : off ≠ 0x30)
    (h38 : off ≠ 0x38) (hend : off.toNat < 0x40 + 16 * s.ndesc) : ∃ r, s.mapped off = some r := by
  refine Option.ne_none_iff_exists'.mp fun hnone => ?_
  obtain h | h | h | h := mapped_eq_none.mp hnone
  · exact h haligned
  · exact h30 h
  · exact h38 h
  · omega

/-! ### Reads -/

/-- A read of a mapped register, its value given as a number. -/
theorem exec_hrd_of_value {s : State} {off : Offset} {r : Reg} {v : Nat} (h : s.mapped off = some r) (d : Word)
    (hv : (readReg s r).toNat = v) :
    v < 2 ^ 64 ∧ exec (.hrd off d) s = .next { s with resp := some ⟨BitVec.ofNat 64 v, false⟩ } := by
  subst hv
  refine ⟨(readReg s r).isLt, ?_⟩
  rw [exec_hrd_of_mapped h, BitVec.ofNat_toNat, BitVec.setWidth_eq]
  rfl

theorem exec_hrd_descM {s : State} {k : Nat} {q : Slot} (hk : k < 12) (hq : s.desc[k]? = some q) (d : Word) :
    exec (.hrd (BitVec.ofNat 8 (0x40 + 16 * k)) d) s = .next (respond q.m false s) := by
  rw [exec_hrd_of_mapped (mapped_descM hk (lt_ndesc_of_getElem? hq)), readReg, slotAt_of_getElem? hq]

theorem exec_hrd_descSh {s : State} {k : Nat} {q : Slot} (hk : k < 12) (hq : s.desc[k]? = some q) (d : Word) :
    exec (.hrd (BitVec.ofNat 8 (0x48 + 16 * k)) d) s = .next (respond (descShWord q) false s) := by
  rw [exec_hrd_of_mapped (mapped_descSh hk (lt_ndesc_of_getElem? hq)), readReg, slotAt_of_getElem? hq]

/-- Settles O9: each offset is a register's, and the words laid out by fields are sums of the fields' places. -/
theorem hostReadReturnsTheRegister : Obligations.HostReadReturnsTheRegister := by
  intro s d hn answers
  refine ⟨?cmd, ?status, ?opa, ?opd, ?result, ?info, fun k q hq => ?slot⟩
  case cmd => exact exec_hrd_of_value (mapped_cmd s) d rfl
  case status => exact exec_hrd_of_value (mapped_offset (r := .status) rfl) d (statusWord_toNat s)
  case opa => exact exec_hrd_of_value (mapped_offset (r := .opa) rfl) d rfl
  case opd => exact exec_hrd_of_value (mapped_offset (r := .opd) rfl) d rfl
  case result => exact exec_hrd_of_value (mapped_offset (r := .result) rfl) d rfl
  case info => exact exec_hrd_of_value (mapped_offset (r := .info) rfl) d (infoWord_toNat (by omega))
  case slot =>
    have hslot := lt_ndesc_of_getElem? hq
    have hk : k < 12 := hslot.trans_le hn
    exact ⟨exec_hrd_of_value (mapped_descM hk hslot) d (by rw [readReg, slotAt_of_getElem? hq]),
      exec_hrd_of_value (mapped_descSh hk hslot) d (by rw [readReg, slotAt_of_getElem? hq, descShWord_toNat])⟩

/-! ### Writes that are performed -/

/-- A STATUS write is performed even while BUSY = 1 (40_host_access R86). -/
theorem exec_hwr_status (s : State) (w : Word) : exec (.hwr 0x08 w) s = .next (respondOk (clearSticky w s)) := by
  have h : s.mapped 0x08 = some .status := mapped_offset (r := .status) rfl
  simp only [exec, execHwr, h, bne_self_eq_false, Bool.and_false]
  rfl

theorem exec_hwr_descM {s : State} {k : Nat} {q : Slot} (hb : s.busy = false) (hk : k < 12)
    (hq : s.desc[k]? = some q) (v : Word) :
    exec (.hwr (BitVec.ofNat 8 (0x40 + 16 * k)) v) s = .next (respondOk (setSlot k { q with m := v } s)) := by
  rw [exec_hwr_of_idle (mapped_descM hk (lt_ndesc_of_getElem? hq)) hb, writeReg, writeDescM, slotAt_of_getElem? hq]

theorem exec_hwr_descSh {s : State} {k : Nat} {q : Slot} (hb : s.busy = false) (hk : k < 12)
    (hq : s.desc[k]? = some q) (v : Word) :
    exec (.hwr (BitVec.ofNat 8 (0x48 + 16 * k)) v) s = .next (respondOk (setSlot k (storeSh v q) s)) := by
  rw [exec_hwr_of_idle (mapped_descSh hk (lt_ndesc_of_getElem? hq)) hb, writeReg, writeDescSh, slotAt_of_getElem? hq,
    storeSh]

/-- Settles O12: the two operand registers. -/
theorem operandWritesStoreTheWord : Obligations.OperandWritesStoreTheWord := fun _ v hb =>
  ⟨exec_hwr_of_idle (mapped_offset (r := .opa) rfl) hb v, exec_hwr_of_idle (mapped_offset (r := .opd) rfl) hb v⟩

/-- Settles O13: the slot is written back with a new M. -/
theorem descMWriteChangesOnlyM : Obligations.DescMWriteChangesOnlyM := fun _ _ _ v hb hk hq =>
  exec_hwr_descM hb hk hq v

/-- Settles O14: the read finds the slot just written, whose word is the data under the mask. -/
theorem descShWriteIsWriteAnyReadLegal : Obligations.DescShWriteIsWriteAnyReadLegal := by
  intro s k q v hb hk hq off t
  have hwritten : t.desc[k]? = some (storeSh v q) := List.getElem?_set_self (lt_ndesc_of_getElem? hq)
  refine ⟨exec_hwr_descSh hb hk hq v, ?_⟩
  rw [← descShWord_storeSh v q]
  exact exec_hrd_descSh hk hwritten 0

/-- Settles O15: each sticky bit is kept exactly when its bit of the data is clear. -/
theorem statusWriteClearsStickyBits : Obligations.StatusWriteClearsStickyBits := by
  intro s w
  have hbit (b sticky : Bool) : (if b then false else sticky) = (sticky && !b) := by
    cases b <;> cases sticky <;> rfl
  rw [hbit, hbit]
  exact exec_hwr_status s w

/-- Settles O16: a performed write to either does nothing, and on a busy unit it is dropped like any other. -/
theorem readOnlyWritesAreIgnored : Obligations.ReadOnlyWritesAreIgnored := by
  rintro s v off (rfl | rfl)
  · have h : s.mapped 0x20 = some .result := mapped_offset (r := .result) rfl
    exact ⟨fun hb => exec_hwr_of_idle h hb v, fun hb => exec_hwr_of_busy h hb (by decide) v⟩
  · have h : s.mapped 0x28 = some .info := mapped_offset (r := .info) rfl
    exact ⟨fun hb => exec_hwr_of_idle h hb v, fun hb => exec_hwr_of_busy h hb (by decide) v⟩

/-- Settles O49: each write gives back the fields the other keeps. -/
theorem savedDescriptorRestores : Obligations.SavedDescriptorRestores := by
  intro s t k q p hk hq hp hb offM offSh
  let t₁ := respondOk (setSlot k { p with m := q.m } t)
  have hmid : t₁.desc[k]? = some { p with m := q.m } := List.getElem?_set_self (lt_ndesc_of_getElem? hp)
  refine ⟨q.m, descShWord q, exec_hrd_descM hk hq 0, exec_hrd_descSh hk hq 0, t₁, exec_hwr_descM hb hk hp q.m, ?_⟩
  have hset : t₁.desc.set k q = t.desc.set k q := List.set_set ..
  rw [exec_hwr_descSh (s := t₁) hb hk hmid, storeSh_descShWord, ← hset]
  rfl

/-! ### A command's checks -/

/-- The accept checks of a command after the word's own (40_host_access R91). -/
def acceptCheck (c : Command) (s : State) : Option CmdError :=
  match c.op with
  | .rcp => rcpCheck c.slot s
  | .divr => useCheck c.slot s
  | .modr => useCheck c.slot s

theorem exec_command (c : Command) (s : State) :
    exec c.instr s = .next (issue c.op c.slot (acceptCheck c s) s) := by
  obtain ⟨op, k⟩ := c
  cases op <;> rfl

/-- A command whose first failing check is `e` (40_host_access R93). -/
theorem exec_command_of_error {s : State} {c : Command} {e : CmdError} (hb : s.busy = false)
    (h : acceptCheck c s = some e) : exec c.instr s = .next (respondOk (reject e s)) := by
  rw [exec_command, h, issue_of_error hb]

theorem acceptCheck_badSlot {s : State} {c : Command} (h : s.ndesc ≤ c.slot.toNat) :
    acceptCheck c s = some .badSlot := by
  obtain ⟨op, k⟩ := c
  cases op with
  | rcp => exact rcpCheck_badSlot h
  | divr => exact useCheck_badSlot h
  | modr => exact useCheck_badSlot h

theorem acceptCheck_descInvalid {s : State} {c : Command} (hop : c.op ≠ .rcp) (hk : c.slot.toNat < s.ndesc)
    (hv : (s.slotAt c.slot.toNat).valid = false) : acceptCheck c s = some .descInvalid := by
  obtain ⟨op, k⟩ := c
  cases op with
  | rcp => exact absurd rfl hop
  | divr => exact useCheck_descInvalid hk hv
  | modr => exact useCheck_descInvalid hk hv

/-- A command's CMD write answers OK and leaves the host's later inputs alone. -/
theorem exec_command_answers (c : Command) (s : State) :
    ∃ t, exec c.instr s = .next t ∧ t.resp = some ⟨0, false⟩ ∧ t.inputs = s.inputs := by
  refine ⟨_, exec_command c s, issue_resp .., ?_⟩
  obtain ⟨-, h⟩ | ⟨-, e, -, h⟩ | ⟨-, -, h⟩ := issue_cases c.op c.slot (acceptCheck c s) s <;> rw [h] <;> rfl

/-- A performed write answers OK and leaves the host's later inputs alone. -/
theorem writeReg_answers (r : Reg) (w : Word) (s : State) :
    ∃ t, writeReg r w s = .next t ∧ t.resp = some ⟨0, false⟩ ∧ t.inputs = s.inputs := by
  cases r with
  | cmd =>
    cases h : decodeCommand w with
    | error e => exact ⟨respondOk (reject .illegalCmd s), by rw [writeReg, writeCmd, h], rfl, rfl⟩
    | ok c => rw [writeReg, writeCmd_of_decode h]; exact exec_command_answers c s
  | _ => exact ⟨_, rfl, rfl, rfl⟩

/-- Settles O11: a write to a mapped register is dropped or performed, and both answer OK. -/
theorem mappedOffsetsAnswerOk : Obligations.MappedOffsetsAnswerOk := by
  intro s off d haligned h30 h38 hend
  obtain ⟨r, hr⟩ := exists_mapped haligned h30 h38 hend
  refine ⟨⟨readReg s r, exec_hrd_of_mapped hr d⟩, ?_⟩
  simp only [exec, execHwr, hr]
  split
  · exact ⟨_, rfl, rfl, rfl⟩
  · exact writeReg_answers r d s

/-- Settles O17: the offset is a register's other than STATUS, and a command is a CMD write. -/
theorem busyWritesAreDropped : Obligations.BusyWritesAreDropped := by
  intro s hb
  refine ⟨fun off v haligned h08 h30 h38 hend => ?_, exec_command_of_busy hb⟩
  obtain ⟨r, hr⟩ := exists_mapped haligned h30 h38 hend
  refine exec_hwr_of_busy hr hb (fun hstatus => h08 ?_) v
  subst hstatus
  exact (mapped_eq_some.mp hr).1

/-! ### Words written to CMD, by their fields -/

/-- The decoder, by the fields of the word (30_encoding R66, R67, R69). -/
theorem decodeCommand_eq_ok_iff_fields {w : Word} {c : Command} :
    decodeCommand w = .ok c ↔
      (w.extractLsb' 4 4 = 0 ∧ w.extractLsb' 12 52 = 0) ∧ w.extractLsb' 0 4 = c.op.field ∧
        w.extractLsb' 8 4 = c.slot := by
  rw [decodeCommand_eq_ok]
  constructor
  · rintro rfl
    obtain ⟨op, k⟩ := c
    cases op <;> revert k <;> decide
  · rintro ⟨⟨hmid, hhigh⟩, hop, hslot⟩
    have hw := commandFields w
    rw [hmid, hhigh, hop, hslot] at hw
    exact hw

/-- The opcode map, as the rows it has (30_encoding R67). -/
theorem exists_eq_field_iff {f : BitVec 4} : (∃ op : CmdOp, f = op.field) ↔ f = 1 ∨ f = 2 ∨ f = 3 := by
  constructor
  · rintro ⟨op, rfl⟩
    cases op <;> decide
  · rintro (rfl | rfl | rfl)
    exacts [⟨.rcp, rfl⟩, ⟨.divr, rfl⟩, ⟨.modr, rfl⟩]

theorem field_eq_one_iff {op : CmdOp} : op.field = 1 ↔ op = .rcp := by cases op <;> decide

theorem field_extractLsb'_eq_pendCode (op : CmdOp) : op.field.extractLsb' 0 2 = pendCode op := by cases op <;> rfl

/-- Settles O18: a word is illegal exactly when it does not decode, and the checks of the decoded command are RCP's or
those of DIVR and MODR. -/
theorem commandWriteRunsItsChecksInOrder : Obligations.CommandWriteRunsItsChecksInOrder := by
  intro s w hb op k legal rejected
  by_cases hlegal : legal
  · obtain ⟨hmid, hhigh, hop⟩ := id hlegal
    obtain ⟨o, ho⟩ := exists_eq_field_iff.mpr hop
    have hrcp : op = 1 ↔ o = .rcp := ho ▸ field_eq_one_iff
    have hexec : exec (.hwr 0x00 w) s = exec (Command.instr ⟨o, k⟩) s :=
      exec_hwr_cmd_of_decode (decodeCommand_eq_ok_iff_fields.mpr ⟨⟨hmid, hhigh⟩, ho, rfl⟩) s
    have hreject {e : CmdError} (he : acceptCheck ⟨o, k⟩ s = some e) : rejected e.code :=
      hexec.trans (exec_command_of_error hb he)
    refine ⟨absurd hlegal, fun _ hnone => hreject (acceptCheck_badSlot (List.getElem?_eq_none_iff.mp hnone)),
      fun _ q hq => ?_⟩
    have hk := lt_ndesc_of_getElem? hq
    obtain rfl := slotAt_of_getElem? hq
    refine ⟨fun h1 hd => ?_, fun h1 hv => hreject (acceptCheck_descInvalid (mt hrcp.mpr h1) hk hv), fun hd hv => ?_⟩
    · obtain rfl := hrcp.mp h1
      exact hreject (rcpCheck_divisorZero hk hd)
    · have haccept := exec_command_of_checked hb hk (fun h => hd (hrcp.mpr h)) (fun h => hv (mt hrcp.mp h))
      refine ⟨Config.latency s.draws, s.draws + 1, hexec.trans (haccept.trans ?_)⟩
      rw [ho, field_extractLsb'_eq_pendCode]
      rfl
  · refine ⟨fun _ => ?_, fun h => absurd h hlegal, fun h => absurd h hlegal⟩
    cases h : decodeCommand w with
    | error e => exact exec_hwr_cmd_of_illegal hb h
    | ok c =>
      obtain ⟨⟨hmid, hhigh⟩, hop, -⟩ := decodeCommand_eq_ok_iff_fields.mp h
      exact absurd ⟨hmid, hhigh, exists_eq_field_iff.mp ⟨_, hop⟩⟩ hlegal

/-! ### The engine and the host's step -/

/-- Settles O23: it is the engine's turn, and each operation's completion is its equation. -/
theorem engineStepCompletesThePendingCommand : Obligations.EngineStepCompletesThePendingCommand := by
  refine fun s => ⟨engineTurn_of_idle, fun hb hturn hk => ?_⟩
  have hstep : step s = complete s := step_of_engineTurn (engineTurn_eq_true.mpr ⟨hb, hturn⟩)
  refine ⟨fun r hop hr => ?_, fun q hop hq => ?_, fun q hop hq => ?_⟩
  · exact hstep.trans ((complete_eq (op := .rcp) hop hk).trans (completeRcp_eq hr))
  · rw [hstep, divr_completesWith s hop hk, slotAt_of_getElem? hq]
    rfl
  · rw [hstep, modr_completesWith s hop hk, slotAt_of_getElem? hq]
    rfl

theorem step_of_silence {s : State} (he : engineTurn s = false) (hin : s.inputs = []) : step s = .next s := by
  simp [step, he, hin]

theorem step_of_resetEvent {s : State} {x : Input} {rest : List Input} (he : engineTurn s = false)
    (hin : s.inputs = x :: rest) (hx : eventOf x = .reset) :
    step s = .next (resetUnit (takeInput x rest s)) := by
  simp [step, he, hin, hx]

/-- Settles O41: a pending command completes, every transaction and reset answer, and silence changes nothing. -/
theorem goodUnitNeverStops : Obligations.GoodUnitNeverStops := by
  intro s hs
  cases he : engineTurn s with
  | true =>
    obtain ⟨hb, -⟩ := engineTurn_eq_true.mp he
    obtain ⟨-, -, hpending⟩ := hs.busy_pending hb
    obtain ⟨u, hu⟩ := complete_of_pendingAccepted hpending
    exact .inl ⟨u, (step_of_engineTurn he).trans hu⟩
  | false =>
    cases hin : s.inputs with
    | nil => exact .inl ⟨s, step_of_silence he hin⟩
    | cons x rest =>
      cases hx : eventOf x with
      | instr i =>
        obtain ⟨t, ht, -⟩ := exec_effect i (takeInput x rest s)
        exact .inl ⟨t, (step_of_instr he hin hx).trans ht⟩
      | reset => exact .inl ⟨_, step_of_resetEvent he hin hx⟩
      | refuse q =>
        exact .inr ⟨rfl, x, rest, q, rfl, by rw [Input.refusedKind, hx], step_of_refuse he hin hx⟩

/-- While BUSY = 1 a transaction answers, or sets OVERRUN, or clears sticky bits, and changes nothing else
(40_host_access R86, R89, R95). -/
theorem HostEffect.undisturbed {i : Instr} {s t : State} (h : HostEffect i s t) (hb : s.busy = true) :
    t.opa = s.opa ∧ t.opd = s.opd ∧ t.desc = s.desc ∧ t.result = s.result ∧
      t.pendOp = s.pendOp ∧ t.pendSlot = s.pendSlot ∧
      t.busy = true ∧ t.done = s.done ∧ t.err = s.err ∧ t.errSticky.toNat ≤ s.errSticky.toNat := by
  cases h with
  | answered v e => exact ⟨rfl, rfl, rfl, rfl, rfl, rfl, hb, rfl, rfl, le_rfl⟩
  | dropped => exact ⟨rfl, rfl, rfl, rfl, rfl, rfl, hb, rfl, rfl, le_rfl⟩
  | cleared w =>
    exact ⟨rfl, rfl, rfl, rfl, rfl, rfl, hb, rfl, rfl, Bool.toNat_le_toNat (Bool.and_le_left _ _)⟩
  | opaWritten v hidle | opdWritten v hidle | descMWritten k v hidle | descShWritten k v hidle | rejected e hidle
  | accepted c hidle => simp [hidle] at hb

/-- Settles O42: with a command pending silence is the engine's turn, so the step took a transaction or the reset
event. -/
theorem pendingCommandIsUndisturbed : Obligations.PendingCommandIsUndisturbed := by
  intro s t hb he h
  obtain ⟨hturn, -⟩ | ⟨-, hin, -⟩ | ⟨-, x, rest, hin, ⟨i, -, heff⟩ | ⟨rfl, -⟩⟩ := step_cases h
  · simp [he] at hturn
  · simp [engineTurn_eq_true.mpr ⟨hb, .inr hin⟩] at he
  · exact .inr (heff.undisturbed hb)
  · exact .inl ⟨rest, hin⟩

/-! ### What a completion reads -/

theorem slotAt_eq_of_getElem? {s t : State} {k : Nat} (h : s.desc[k]? = t.desc[k]?) : s.slotAt k = t.slotAt k := by
  simp only [State.slotAt, List.getD, h]

/-- DIVR and MODR write the same RESULT from the same OPA, slot and, for MODR, OPD, and keep the bank. -/
theorem complete_result_congr {s t s' : State} (hop : s.pendOp = t.pendOp) (hslot : s.pendSlot = t.pendSlot)
    (hn : s.ndesc = t.ndesc) (hne : s.pendOp ≠ 1) (hopa : s.opa = t.opa)
    (hq : s.slotAt s.pendSlot.toNat = t.slotAt s.pendSlot.toNat) (hopd : s.pendOp ≠ 2 → s.opd = t.opd)
    (h : complete s = .next s') :
    ∃ t', complete t = .next t' ∧ t'.result = s'.result ∧ t'.desc = t.desc := by
  obtain ⟨hk, hcases⟩ := complete_cases h
  rw [hslot] at hk hq
  rw [hn] at hk
  obtain ⟨h1, -⟩ | ⟨h2, rfl⟩ | ⟨h3, rfl⟩ := hcases
  · exact absurd h1 hne
  · refine ⟨_, divr_completesWith t (hop.symm.trans h2) hk, ?_, rfl⟩
    simp only [setCompleted_result, withResult, hopa, hslot, hq]
  · refine ⟨_, modr_completesWith t (hop.symm.trans h3) hk, ?_, rfl⟩
    simp only [setCompleted_result, withResult, hopa, hslot, hq, hopd (by rw [h3]; decide)]

/-- RCP builds the same slot from the same OPD, and keeps RESULT and every other slot. -/
theorem complete_slot_congr {s t s' : State} (hop : s.pendOp = t.pendOp) (hslot : s.pendSlot = t.pendSlot)
    (hn : s.ndesc = t.ndesc) (h1 : s.pendOp = 1) (hopd : s.opd = t.opd) (h : complete s = .next s') :
    ∃ t', complete t = .next t' ∧ t'.desc[s.pendSlot.toNat]? = s'.desc[s.pendSlot.toNat]? ∧
      t'.result = t.result ∧ ∀ j, j ≠ s.pendSlot.toNat → t'.desc[j]? = t.desc[j]? := by
  obtain ⟨hk, ⟨-, r, hr, rfl⟩ | ⟨h2, -⟩ | ⟨h3, -⟩⟩ := complete_cases h
  · have hkt : s.pendSlot.toNat < t.ndesc := hn ▸ hk
    rw [hopd] at hr
    refine ⟨_, (complete_eq (op := .rcp) (hop.symm.trans h1) (hslot ▸ hkt)).trans (completeRcp_eq hr), ?_, rfl,
      fun j hj => ?_⟩
    · rw [← hslot]
      exact (List.getElem?_set_self hkt).trans (List.getElem?_set_self hk).symm
    · exact List.getElem?_set_ne (hslot ▸ hj.symm)
  · simp [h1] at h2
  · simp [h1] at h3

/-- Settles O48: RCP, and the two operations that write RESULT. -/
theorem completionReadsOnlyItsOperands : Obligations.CompletionReadsOnlyItsOperands := by
  intro s t s' hop hslot hn huse hopd h
  by_cases h1 : s.pendOp = 1
  · obtain ⟨t', ht', hbuilt, hresult, hother⟩ := complete_slot_congr hop hslot hn h1 (hopd (by rw [h1]; decide)) h
    exact ⟨t', ht', fun _ => ⟨hbuilt, hresult⟩, fun hne => absurd h1 hne, hother⟩
  · obtain ⟨hopa, hq⟩ := huse h1
    obtain ⟨t', ht', hresult, hdesc⟩ :=
      complete_result_congr hop hslot hn h1 hopa (slotAt_eq_of_getElem? hq) hopd h
    exact ⟨t', ht', fun h1' => absurd h1' h1, fun _ => ⟨hresult, hdesc⟩, fun j _ => by rw [hdesc]⟩

end Sys2Proof.Machine

/-! PROOF. The construction of a descriptor, RCP (spec/41_magic_multiplier_compute.md R96 to R102): the ranges of its
intermediates, the exact multiplier and shifts, and the unit's accept, completion and refusal. -/

namespace Sys2Proof.Machine

/-! ### The power of two at or above a divisor -/

/-- For d = 1 as well, unlike `two_pow_fls64_le`: the power is below twice the divisor. -/
theorem two_pow_fls64_lt {d : Word} (hd : d ≠ 0) : 2 ^ fls64 (d - 1) < 2 * d.toNat := by
  by_cases h1 : d = 1
  · subst h1; decide
  · have := two_pow_fls64_le hd h1
    omega

theorem ne_zero_of_toNat_two_pow {d : Word} {k : Nat} (h : d.toNat = 2 ^ k) : d ≠ 0 := by
  rintro rfl
  exact (Nat.two_pow_pos k).ne h

/-- The only power of two in `[d, 2d)` for d = 2^k is 2^k. -/
theorem fls64_sub_one_of_two_pow {d : Word} {k : Nat} (h : d.toNat = 2 ^ k) : fls64 (d - 1) = k := by
  have hd := ne_zero_of_toNat_two_pow h
  have hle : 2 ^ k ≤ 2 ^ fls64 (d - 1) := h ▸ le_two_pow_fls64_sub_one hd
  have hlt : 2 ^ fls64 (d - 1) < 2 ^ (k + 1) := by rw [pow_succ', ← h]; exact two_pow_fls64_lt hd
  have hk : k ≤ fls64 (d - 1) := (Nat.pow_le_pow_iff_right Nat.one_lt_two).mp hle
  have hk' : fls64 (d - 1) < k + 1 := (Nat.pow_lt_pow_iff_right Nat.one_lt_two).mp hlt
  omega

/-- Settles O26: the bounds on `2^l` against `d`, with `2^l` written as twice `2^(l-1)`. -/
theorem reciprocalIntermediatesFit : Obligations.ReciprocalIntermediatesFit := by
  intro d hd l v
  refine ⟨?_, fun h1 => ?_, fun h64 => ?_⟩
  · rintro rfl
    decide
  · have hpos : 1 ≤ l := fls64_pos (sub_one_ne_zero h1)
    have hl64 : l ≤ 64 := fls64_le (d - 1)
    have hle : d.toNat ≤ 2 ^ l := le_two_pow_fls64_sub_one hd
    have hlow : 2 ^ l + 2 ≤ 2 * d.toNat := two_pow_fls64_le hd h1
    have hdouble : 2 ^ (l - 1) * 2 = 2 ^ l := Nat.pow_pred_mul hpos
    have htop : 2 ^ (l - 1) ≤ 2 ^ 63 := Nat.pow_le_pow_right Nat.two_pos (by omega)
    have hdiff : 2 ^ l - d.toNat < 2 ^ (l - 1) := by omega
    exact ⟨by omega, hle, hpos, hl64, hdiff, htop, by simp only [v]; omega⟩
  · have hpos := toNat_pos_of_ne_zero hd
    rw [h64, zero_sub, BitVec.toNat_neg, Nat.mod_eq_of_lt (by omega)]

/-! ### The multiplier and the shifts -/

theorem computeReciprocal_zero : computeReciprocal 0 = none := if_pos rfl

/-- Where the construction is defined, it is the formula of R96. -/
theorem computeReciprocal_of_ne_zero {d : Word} (hd : d ≠ 0) :
    computeReciprocal d = some
      { m := BitVec.ofNat 64 (2 ^ 64 * (2 ^ fls64 (d - 1) - d.toNat) / d.toNat + 1)
        sh1 := BitVec.ofNat 1 (min (fls64 (d - 1)) 1)
        sh2 := BitVec.ofNat 6 (fls64 (d - 1) - 1) } :=
  if_neg hd

theorem computeReciprocal_m_toNat {d : Word} {r : Descriptor} (h : computeReciprocal d = some r) :
    r.m.toNat = 2 ^ 64 * (2 ^ fls64 (d - 1) - d.toNat) / d.toNat + 1 := by
  obtain ⟨hd, hm, -⟩ := computeReciprocal_spec h
  have := multiplier_add (toNat_pos_of_ne_zero hd) (le_two_pow_fls64_sub_one hd)
  omega

/-- The quotient is at most `2^64 - 4`: below `2^63` because `2^l ≤ 2d - 2`, above because `2^l ≤ 2^64` (41 R99). -/
theorem multiplier_le {d : Word} (hd : d ≠ 0) :
    2 ^ 64 * (2 ^ fls64 (d - 1) - d.toNat) / d.toNat + 1 ≤ 2 ^ 64 - 3 := by
  by_cases h1 : d = 1
  · subst h1; decide
  · have hpos := toNat_pos_of_ne_zero hd
    have hpow := two_pow_fls64_le hd h1
    have htop : 2 ^ fls64 (d - 1) ≤ 2 ^ 64 := Nat.pow_le_pow_right Nat.two_pos (fls64_le (d - 1))
    have hq : 2 ^ 64 * (2 ^ fls64 (d - 1) - d.toNat) / d.toNat < 2 ^ 64 - 3 :=
      Nat.div_lt_of_lt_mul (by omega)
    omega

/-- The quotient is 0 exactly when nothing is left between `d` and the power of two, since `d < 2^64`. -/
theorem multiplier_eq_one_iff {d : Word} (hd : d ≠ 0) :
    2 ^ 64 * (2 ^ fls64 (d - 1) - d.toNat) / d.toNat + 1 = 1 ↔ d.toNat = 2 ^ fls64 (d - 1) := by
  have hpos := toNat_pos_of_ne_zero hd
  have hlt := d.isLt
  have hle := le_two_pow_fls64_sub_one hd
  rw [Nat.add_eq_right, Nat.div_eq_zero_iff]
  omega

/-- Settles O27: the multiplier's value, bounds and least value by the lemmas on the quotient. -/
theorem reciprocalMultiplierIsExact : Obligations.ReciprocalMultiplierIsExact := by
  refine ⟨fun d r h => ?_, ⟨0xFFFFFFFFFFFFFFFD, 1, 63⟩, by decide, rfl⟩
  obtain ⟨hd, hexact, -⟩ := computeReciprocal_spec h
  have hm := computeReciprocal_m_toNat h
  have hone : r.m = 1 ↔ d.toNat = 2 ^ fls64 (d - 1) := by
    rw [← multiplier_eq_one_iff hd, ← hm]
    exact BitVec.toNat_inj.symm
  refine ⟨hexact, hm ▸ Nat.le_add_left 1 _, hm ▸ multiplier_le hd, hone.trans ⟨fun hpow => ⟨_, hpow⟩, ?_⟩⟩
  rintro ⟨k, hk⟩
  rw [fls64_sub_one_of_two_pow hk, hk]

/-- Settles O28: l is 0 for d = 1 and at least 1 otherwise. -/
theorem reciprocalShiftsAreInRange : Obligations.ReciprocalShiftsAreInRange := by
  intro d r h
  obtain ⟨-, -, hsh1, hsh2⟩ := computeReciprocal_spec h
  refine ⟨?_, fun h1 => ?_⟩
  · rintro rfl
    exact ⟨BitVec.eq_of_toNat_eq hsh1, BitVec.eq_of_toNat_eq hsh2⟩
  · have hpos := fls64_pos (sub_one_ne_zero h1)
    have hl := fls64_le (d - 1)
    rw [Nat.min_eq_right hpos] at hsh1
    exact ⟨BitVec.eq_of_toNat_eq hsh1, by omega, by omega⟩

/-- The descriptor of a power of two (41 R102). -/
theorem computeReciprocal_of_two_pow {d : Word} {k : Nat} (h : d.toNat = 2 ^ k) :
    computeReciprocal d = some { m := 1, sh1 := BitVec.ofNat 1 (min k 1), sh2 := BitVec.ofNat 6 (k - 1) } := by
  rw [computeReciprocal_of_ne_zero (ne_zero_of_toNat_two_pow h), fls64_sub_one_of_two_pow h, h, Nat.sub_self,
    Nat.mul_zero, Nat.zero_div]
  rfl

/-- Settles O30: division by the descriptor of 2^k is exact, and the quotient by 2^k is the shift. -/
theorem powerOfTwoDivisorsShift : Obligations.PowerOfTwoDivisorsShift := by
  intro k hk
  have hpow : (BitVec.ofNat 64 (2 ^ k)).toNat = 2 ^ k :=
    (BitVec.toNat_ofNat ..).trans <| Nat.mod_eq_of_lt (Nat.pow_lt_pow_right Nat.one_lt_two (by omega))
  have hr := computeReciprocal_of_two_pow hpow
  rw [Nat.max_zero]
  refine ⟨hr, fun a => BitVec.eq_of_toNat_eq ?_⟩
  rw [reciprocalDivide_eq_div hr a, hpow, BitVec.toNat_ushiftRight, Nat.shiftRight_eq_div_pow]

/-! ### RCP on the unit -/

/-- The completion refuses the divisor the construction is not defined for (41 R101). -/
theorem completeRcp_of_zero {s : State} (h : s.opd = 0) : completeRcp s = .refused .reciprocalOfZero := by
  rw [completeRcp, h, computeReciprocal_zero]

/-- Settles O20: every check of RCP passes, and the completion writes the construction's descriptor. -/
theorem rcpBuildsItsSlot : Obligations.RcpBuildsItsSlot := by
  intro s k hb hk hd d l
  have haccept := exec_command_of_checked (op := .rcp) hb hk (fun _ => hd) (fun h => absurd rfl h)
  rw [Nat.max_zero]
  refine ⟨Config.latency s.draws, s.draws + 1, haccept, ?_⟩
  exact (complete_eq (op := .rcp) rfl hk).trans (completeRcp_eq (computeReciprocal_of_ne_zero hd))

/-- Settles O29: the accept check catches a zero divisor, and so does the completion. -/
theorem zeroDivisorIsRejected : Obligations.ZeroDivisorIsRejected := by
  refine ⟨computeReciprocal_zero, fun s k hb hk hd => ?_, fun s hop hk hd => ?_⟩
  · exact exec_command_of_error (c := ⟨.rcp, k⟩) hb (rcpCheck_divisorZero hk hd)
  · exact (complete_eq (op := .rcp) hop hk).trans (completeRcp_of_zero hd)

end Sys2Proof.Machine

/-! PROOF. DIVR (spec/42_divide_by_reciprocal.md R104 to R107): its value in exact naturals for every descriptor, its
accept and completion on a valid slot, and the quotient it leaves after RCP on the same slot. -/

namespace Sys2Proof.Machine

/-! ### The divide in exact naturals -/

/-- The high half plus the shifted rest stays below the dividend, since the shift only shrinks the rest (42 R107). -/
theorem add_sub_div_two_pow_le {a t : Nat} (h : t ≤ a) (n : Nat) : t + (a - t) / 2 ^ n ≤ a := by
  have hu : (a - t) / 2 ^ n ≤ a - t := Nat.div_le_self _ _
  omega

/-- Settles O31: the high half is at most the dividend, so is the sum, and the last shift only shrinks it. -/
theorem divideNeverOverflows : Obligations.DivideNeverOverflows := by
  intro a r t u
  have ht : (mulhi64 a r.m).toNat = t := mulhi64_toNat a r.m
  have hta : t ≤ a.toNat := ht ▸ mulhi64_le a r.m
  have hsum : t + u ≤ a.toNat := add_sub_div_two_pow_le hta r.sh1.toNat
  have hq : (reciprocalDivide a r).toNat = (t + u) / 2 ^ r.sh2.toNat := by rw [reciprocalDivide_toNat, ht]
  exact ⟨ht, hta, hsum, hq, hq ▸ (Nat.div_le_self _ _).trans hsum⟩

/-- The word DIVR writes, from the exact value of R104. -/
theorem reciprocalDivide_eq_ofNat (a : Word) (r : Descriptor) :
    reciprocalDivide a r = BitVec.ofNat 64
      ((a.toNat * r.m.toNat / 2 ^ 64 + (a.toNat - a.toNat * r.m.toNat / 2 ^ 64) / 2 ^ r.sh1.toNat) /
        2 ^ r.sh2.toNat) := by
  rw [← mulhi64_toNat, ← reciprocalDivide_toNat, BitVec.ofNat_toNat, BitVec.setWidth_eq]

/-! ### DIVR on the unit -/

/-- Settles O21: both checks of DIVR pass, and the completion writes the divide by the slot's descriptor. -/
theorem divrWritesTheQuotient : Obligations.DivrWritesTheQuotient := by
  intro s k q hb hq hv a th
  have hk := lt_ndesc_of_getElem? hq
  obtain rfl := slotAt_of_getElem? hq
  have haccept := exec_command_of_checked (op := .divr) hb hk (fun h => nomatch h) (fun _ => hv)
  refine ⟨Config.latency s.draws, s.draws + 1, haccept, ?_⟩
  rw [← reciprocalDivide_eq_ofNat]
  exact divr_completesWith _ rfl hk

/-! ### RCP and then a use of its slot -/

/-- RCP, completed, sets its slot to the descriptor of OPD and reports no error (41 R97). -/
theorem rcp_sets_divisor {s : State} {k : SlotIndex} {r : Descriptor} (hb : s.busy = false) (hk : k.toNat < s.ndesc)
    (hr : computeReciprocal s.opd = some r) :
    ∃ t u, exec (.rcp k) s = .next t ∧ complete t = .next u ∧ DivisorSet s.opd k r u := by
  have hd := (computeReciprocal_spec hr).1
  refine ⟨_, _, exec_command_of_checked (op := .rcp) hb hk (fun _ => hd) (fun h => absurd rfl h),
    (complete_eq (op := .rcp) rfl hk).trans (completeRcp_eq hr), rfl, rfl, ?_, ?_⟩
  · exact (setSlot_ndesc ..).symm ▸ hk
  · exact setSlot_slotAt_self _ hk

/-- A use of a slot that is set, completed, leaves the operation's value in RESULT and no error. -/
theorem use_completes {s : State} {d : Word} {k : SlotIndex} {r : Descriptor} {op : CmdOp}
    {f : Word → Word → Descriptor → Word} (hop : op ≠ .rcp) (hf : CompletesWith op f)
    (hs : DivisorSet d k r s) :
    ∃ t u, exec (Command.instr ⟨op, k⟩) s = .next t ∧ complete t = .next u ∧
      u.result = f s.opa d r ∧ u.busy = false ∧ u.done = true ∧ u.err = 0 := by
  obtain ⟨hb, rfl, hk, hslot⟩ := hs
  have hvalid : (s.slotAt k.toNat).valid = true := by rw [hslot]
  refine ⟨_, _, exec_command_of_checked hb hk (fun h => absurd h hop) (fun _ => hvalid), hf _ rfl hk, ?_,
    rfl, rfl, rfl⟩
  exact congrArg (fun q : Slot => f s.opa s.opd q.toDescriptor) hslot

/-- RCP with OPD = d and then a use of the same slot leave the operation's value for d in RESULT, whatever is written
to OPA in between (42 R106, 43 R112). -/
theorem rcp_then_use_completes {s : State} {k : SlotIndex} {r : Descriptor} {op : CmdOp}
    {f : Word → Word → Descriptor → Word} (hop : op ≠ .rcp) (hf : CompletesWith op f) (hb : s.busy = false)
    (hk : k.toNat < s.ndesc) (hr : computeReciprocal s.opd = some r) (a : Word) :
    ∃ t₁ t₂ t₃ t₄, exec (.rcp k) s = .next t₁ ∧ complete t₁ = .next t₂ ∧
      exec (Command.instr ⟨op, k⟩) { t₂ with opa := a } = .next t₃ ∧ complete t₃ = .next t₄ ∧
      t₄.result = f a s.opd r ∧ t₄.busy = false ∧ t₄.done = true ∧ t₄.err = 0 := by
  obtain ⟨t₁, t₂, hexec, hcomplete, hidle, hopd, hlt, hslot⟩ := rcp_sets_divisor hb hk hr
  have hset : DivisorSet s.opd k r { t₂ with opa := a } := ⟨hidle, hopd, hlt, hslot⟩
  obtain ⟨t₃, t₄, huse⟩ := use_completes hop hf hset
  exact ⟨t₁, t₂, t₃, t₄, hexec, hcomplete, huse⟩

/-- Settles O32: DIVR's value on the descriptor RCP builds is the quotient. -/
theorem reciprocalDivideIsExact : Obligations.ReciprocalDivideIsExact := by
  refine ⟨fun a d hd => ?_, fun s k a hb hk hd => ?_⟩
  · obtain ⟨r, hr⟩ := computeReciprocal_ne_zero hd
    exact ⟨r, hr, reciprocalDivide_eq_div hr a⟩
  · obtain ⟨r, hr⟩ := computeReciprocal_ne_zero hd
    obtain ⟨t₁, t₂, t₃, t₄, hrcp, hbuilt, hdivr, hdone, hresult, hflags⟩ :=
      rcp_then_use_completes (by decide) divr_completesWith hb hk hr a
    exact ⟨t₁, t₂, t₃, t₄, hrcp, hbuilt, hdivr, hdone, hresult ▸ reciprocalDivide_eq_div hr a, hflags⟩

end Sys2Proof.Machine

/-! PROOF. MODR (spec/43_modulo_by_reciprocal.md R110 to R115): its value in exact naturals for every dividend, divisor
and descriptor, its accept and completion on a valid slot, and the remainder it leaves after RCP on the same slot. -/

namespace Sys2Proof.Machine

/-! ### The remainder in naturals -/

/-- The subtraction before the correction, modulo 2^64 (43 R110). -/
theorem remainderRaw_toNat (a d : Word) (r : Descriptor) :
    (remainderRaw a d r).toNat =
      (a.toNat + 2 ^ 64 - (reciprocalDivide a r).toNat * d.toNat % 2 ^ 64) % 2 ^ 64 := by
  have hlt : (reciprocalDivide a r).toNat * d.toNat % 2 ^ 64 < 2 ^ 64 := Nat.mod_lt _ (by decide)
  rw [remainderRaw, BitVec.toNat_sub, BitVec.toNat_mul, Nat.add_comm a.toNat, Nat.sub_add_comm hlt.le]

/-- The correction does not wrap: it is made only where it does not borrow (43 R110). -/
theorem reciprocalRemainder_toNat (a d : Word) (r : Descriptor) :
    (reciprocalRemainder a d r).toNat =
      if d.toNat ≤ (remainderRaw a d r).toNat then (remainderRaw a d r).toNat - d.toNat
      else (remainderRaw a d r).toNat := by
  by_cases h : d ≤ remainderRaw a d r
  · rw [reciprocalRemainder, if_pos h, if_pos (BitVec.le_def.mp h), BitVec.toNat_sub_of_le h]
  · rw [reciprocalRemainder, if_neg h, if_neg (mt BitVec.le_def.mpr h)]

/-- With divisor 0 nothing is subtracted, and the correction subtracts 0 (43 R115). -/
theorem reciprocalRemainder_zero (a : Word) (r : Descriptor) : reciprocalRemainder a 0 r = a := by
  have hraw : remainderRaw a 0 r = a := by rw [remainderRaw, mul_zero, sub_zero]
  rw [reciprocalRemainder, hraw, sub_zero, ite_self]

/-- Settles O35: the subtraction is modulo 2^64, and the correction does not wrap. -/
theorem remainderWrapsModulo : Obligations.RemainderWrapsModulo := by
  intro a d r q r₀
  have hraw : (remainderRaw a d r).toNat = r₀ := remainderRaw_toNat a d r
  rw [reciprocalRemainder_toNat, hraw]

/-- Settles O34: the quotient is exact, so the value before the correction is the remainder, which is below the
divisor. -/
theorem matchingRemainderNeedsNoCorrection : Obligations.MatchingRemainderNeedsNoCorrection := by
  intro a d r hr
  have hraw : (a - reciprocalDivide a r * d).toNat = a.toNat % d.toNat := remainderRaw_eq_mod hr a
  have hpos := toNat_pos_of_ne_zero (computeReciprocal_spec hr).1
  refine ⟨?_, hraw, ?_⟩
  · rw [reciprocalDivide_eq_div hr]
    exact Nat.div_mul_le_self _ _
  · rw [hraw]
    exact Nat.not_le.mpr (Nat.mod_lt _ hpos)

/-! ### MODR on the unit -/

/-- On a valid slot MODR is accepted, and its completion writes the remainder by the slot's descriptor to RESULT and
nothing else (43 R111, R114). -/
theorem modr_accepted_completes {s : State} {k : SlotIndex} {q : Slot} (hb : s.busy = false)
    (hq : s.desc[k.toNat]? = some q) (hv : q.valid = true) :
    exec (.modr k) s = .next (respondOk (accept .modr k s)) ∧
    complete (respondOk (accept .modr k s)) = .next (setCompleted
      (withResult (reciprocalRemainder s.opa s.opd q.toDescriptor) (respondOk (accept .modr k s)))) := by
  have hk := lt_ndesc_of_getElem? hq
  obtain rfl := slotAt_of_getElem? hq
  exact ⟨exec_command_of_checked (op := .modr) hb hk (fun h => nomatch h) (fun _ => hv), modr_completesWith _ rfl hk⟩

/-- Settles O22: both checks of MODR pass, and the completion writes the remainder by the slot's descriptor. -/
theorem modrWritesTheRemainder : Obligations.ModrWritesTheRemainder := by
  intro s k q hb hq hv raw
  exact ⟨Config.latency s.draws, s.draws + 1, modr_accepted_completes hb hq hv⟩

/-- Settles O36: the accept does not look at OPD, and the remainder by 0 is the dividend. -/
theorem modrByZeroReturnsTheDividend : Obligations.ModrByZeroReturnsTheDividend := by
  intro s k q hb hq hv hd
  obtain ⟨haccept, hcomplete⟩ := modr_accepted_completes hb hq hv
  rw [hd, reciprocalRemainder_zero] at hcomplete
  exact ⟨_, _, haccept, hcomplete, rfl, rfl, rfl, rfl, rfl⟩

/-- Settles O33: MODR's value on the descriptor RCP builds is the remainder. -/
theorem reciprocalRemainderIsExact : Obligations.ReciprocalRemainderIsExact := by
  refine ⟨fun a d hd => ?_, fun s k a hb hk hd => ?_⟩
  · obtain ⟨r, hr⟩ := computeReciprocal_ne_zero hd
    exact ⟨r, hr, reciprocalRemainder_eq_mod hr a⟩
  · obtain ⟨r, hr⟩ := computeReciprocal_ne_zero hd
    obtain ⟨t₁, t₂, t₃, t₄, hrcp, hbuilt, hmodr, hdone, hresult, hflags⟩ :=
      rcp_then_use_completes (by decide) modr_completesWith hb hk hr a
    exact ⟨t₁, t₂, t₃, t₄, hrcp, hbuilt, hmodr, hdone, hresult ▸ reciprocalRemainder_eq_mod hr a, hflags⟩

end Sys2Proof.Machine

/-! PROOF. Reset and the busy hazard (spec/70_reset_and_hazards.md R135, R141): the reset event abandons the command in
flight, and a write of OPD to a unit with a command pending is performed or dropped. -/

namespace Sys2Proof.Machine

/-! ### The reset event -/

/-- Settles O38: the step is the reset of the unit, whose bank keeps its size. -/
theorem resetEventAbandonsTheCommand : Obligations.ResetEventAbandonsTheCommand := by
  intro s rest he hin
  have hbank : (resetUnit (takeInput .reset rest s)).ndesc = s.ndesc := resetUnit_ndesc _
  exact ⟨_, step_of_resetEvent he hin rfl, rfl, rfl, rfl, hbank, fun _ hk => List.getElem?_replicate_of_lt hk,
    rfl, rfl, rfl, rfl, rfl, rfl, engineTurn_of_idle rfl, congrArg infoWord hbank⟩

/-! ### A write while a command is pending -/

/-- A completion neither reads nor writes OVERRUN. -/
theorem complete_setOverrun {s u : State} (h : complete s = .next u) :
    complete (setOverrun s) = .next (setOverrun u) := by
  obtain ⟨hk, hcases⟩ := complete_cases h
  have hcomplete {op : CmdOp} (hop : s.pendOp = pendCode op) := complete_eq (s := setOverrun s) hop hk
  obtain ⟨hop, r, hr, rfl⟩ | ⟨hop, rfl⟩ | ⟨hop, rfl⟩ := hcases
  · exact (hcomplete (op := .rcp) hop).trans (completeRcp_eq hr)
  · exact hcomplete (op := .divr) hop
  · exact hcomplete (op := .modr) hop

/-- A host write to any register but STATUS that comes before the completion is dropped (40_host_access R89). -/
theorem step_wr_of_busy {s : State} {r : Reg} {v : Word} {rest : List Input} {left : Nat} (hb : s.busy = true)
    (hleft : s.hostLeft = left + 1) (hin : s.inputs = wr (.name r) v :: rest) (hr : regPresent s.ndesc r = true)
    (hne : r ≠ .status) : step s = .next (dropWrite { s with inputs := rest, hostLeft := left }) := by
  have hturn : engineTurn s = false := by simp [engineTurn, hleft, hin]
  have htake : takeInput (wr (.name r) v) rest s = { s with inputs := rest, hostLeft := left } := by
    rw [takeInput_of_ne_wait (by simp [wr])]
    simp [hb, hleft]
  rw [step_of_instr hturn hin (eventOf_wr r v), htake]
  exact exec_hwr_of_busy (s := { s with inputs := rest, hostLeft := left }) (mapped_offset hr) hb hne v

/-- A write of OPD on a unit with a command pending, and the `wait` after it, end with the bank the completion leaves:
the write is performed if the completion came first, and dropped with OVERRUN if it did not (20_memory R56). -/
theorem steps_writeOpd_wait_of_pending {s u : State} {v : Word} {rest : List Input} (hb : s.busy = true)
    (hin : s.inputs = wr (.name .opd) v :: .wait :: rest) (hc : complete s = .next u) :
    ∃ n t, steps n s = .next t ∧ t.inputs = rest ∧ t.busy = false ∧ t.desc = u.desc ∧
      ((t.opd = v ∧ t.overrun = u.overrun) ∨ (t.opd = u.opd ∧ t.overrun = true)) := by
  have hu : u.busy = false := complete_busy hc
  cases hleft : s.hostLeft with
  | zero =>
    have hengine : step s = .next u := by
      rw [step_of_engineTurn (engineTurn_eq_true.mpr ⟨hb, .inl hleft⟩), hc]
    have hwrite := step_wr_of_idle hu ((complete_inputs hc).trans hin) rfl
    have hlast := step_wait_of_idle (s := respondOk (writeOpd v (withInputs (.wait :: rest) u))) hu rfl
    exact ⟨3, _, (steps_succ hengine 2).trans ((steps_succ hwrite 1).trans (steps_succ hlast 0)), rfl, hu, rfl,
      .inl ⟨rfl, rfl⟩⟩
  | succ left =>
    have hdrop := step_wr_of_busy hb hleft hin rfl (by decide)
    obtain ⟨n, hn⟩ := steps_wait_of_pending
      (s := dropWrite { s with inputs := .wait :: rest, hostLeft := left }) hb rfl
      (complete_of_hostSide (complete_setOverrun hc) (some ⟨0, false⟩) (.wait :: rest) left)
    exact ⟨n + 1, _, (steps_succ hdrop n).trans hn, rfl, hu, rfl, .inr ⟨rfl, rfl⟩⟩

/-- An idle unit accepts a command whose checks all pass, and keeps the host's later events (40_host_access R91). -/
theorem step_cmdWrite_of_checked {s : State} {op : CmdOp} {k : SlotIndex} {rest : List Input} (hb : s.busy = false)
    (hin : s.inputs = cmdWrite op.field k :: rest) (hk : k.toNat < s.ndesc) (hd : op = .rcp → s.opd ≠ 0)
    (hv : op ≠ .rcp → (s.slotAt k.toNat).valid = true) :
    step s = .next (respondOk (accept op k (withInputs rest s))) := by
  rw [step_of_idle hb hin (eventOf_cmdWrite op k), exec_hwr_cmd_of_decode (decodeCommand_encodeCommand ⟨op, k⟩)]
  exact exec_command_of_checked (s := withInputs rest s) hb hk hd hv

/-- Settles O53: RCP is accepted, and its completion builds the slot from the OPD of the accept. -/
theorem writeWithoutWaitHasTwoOutcomes : Obligations.WriteWithoutWaitHasTwoOutcomes := by
  intro s k v rest _ hb hd hk hin
  obtain ⟨r, hr⟩ := computeReciprocal_ne_zero hd
  have haccept := step_cmdWrite_of_checked (op := .rcp) hb hin hk (fun _ => hd) (fun h => absurd rfl h)
  obtain ⟨n, t, hn, hrest, hidle, hdesc, houtcome⟩ := steps_writeOpd_wait_of_pending
    (s := respondOk (accept .rcp k (withInputs (wr (.name .opd) v :: .wait :: rest) s))) rfl rfl
    ((complete_eq (op := .rcp) rfl hk).trans (completeRcp_eq hr))
  exact ⟨n + 1, t, r, (steps_succ haccept n).trans hn, hrest, hidle, hr, hdesc, houtcome⟩

end Sys2Proof.Machine
